-- ==== Sys2Proof/Word.lean ====
section
/-! DEFINITION. The word and window-offset types (00_scope R10, R13; 20_memory R50). -/

namespace Sys2Proof

/-- Every register, schedule, constant and operand word: unsigned 32-bit (00_scope R10, WORD). -/
abbrev Word := BitVec 32

/-- A byte offset into the 512-byte register window (20_memory R50), `off` of 20_memory §2. -/
abbrev Offset := BitVec 9

end Sys2Proof
end

