-- ==== Sys2Proof/Syntax.lean ====
section
/-! DEFINITION. The commands of SHA1-CORE (30_encoding R74), one constructor per row of spec/opcode_table.json. -/

namespace Sys2Proof

/-- The four commands. No command word carries an operand: every operand and result has a fixed register
(30_encoding R72). -/
inductive Instr where
  /-- NOP (43_control R150). -/
  | nop
  /-- COMPRESS (40_compress R105). -/
  | compress
  /-- ROTL (41_rotate R131). -/
  | rotl
  /-- MIX (42_mix R141). -/
  | mix
deriving DecidableEq, Repr

end Sys2Proof
end

