-- ==== Sys2Proof/WellFormed.lean ====
section
/-! DEFINITION. Well-formed commands and command words (30_encoding R71, R74, R76). -/

namespace Sys2Proof

/-- Every command is well formed: no constructor has a field that could be out of range (30_encoding R72). -/
def Instr.wellFormed : Instr → Bool
  | .nop => true
  | .compress => true
  | .rotl => true
  | .mix => true

/-- A command word is well formed when RSV, bits 31:4, is 0 and OP, bits 3:0, is one of the four codes
(30_encoding R71, R76). -/
def commandWordWellFormed (v : Word) : Bool :=
  v.extractLsb' 4 28 == 0 && decide (v.extractLsb' 0 4 < 4)

end Sys2Proof
end

