-- ==== Sys2Proof/Decode.lean ====
section
/-! DEFINITION. The decoder of command words, total on every 32-bit word, and the encoder (30_encoding R70 to R77). -/

namespace Sys2Proof

/-- Why a command word is no command; either way a write of it raises ILLEGAL_CMD (30_encoding R75, R76). -/
inductive DecodeReject where
  /-- A bit of RSV, bits 31:4, is set. -/
  | reservedBits
  /-- RSV is 0 and OP is 0x4 to 0xF. -/
  | reservedOpcode
deriving DecidableEq, Repr

/-- OP, bits 3:0 of a command word (30_encoding R71). -/
def opField (v : Word) : BitVec 4 := v.extractLsb' 0 4

/-- RSV, bits 31:4 of a command word (30_encoding R71). -/
def rsvField (v : Word) : BitVec 28 := v.extractLsb' 4 28

/-- The opcode map (30_encoding R74); `none` for the reserved codes 0x4 to 0xF. -/
def opcodeMap (op : BitVec 4) : Option Instr :=
  if op = 0x0 then some .nop
  else if op = 0x1 then some .compress
  else if op = 0x2 then some .rotl
  else if op = 0x3 then some .mix
  else none

/-- The decoder (30_encoding R75): one of the four commands, or a named rejection. -/
def decode (v : Word) : Except DecodeReject Instr :=
  if rsvField v ≠ 0 then .error .reservedBits
  else match opcodeMap (opField v) with
    | some i => .ok i
    | none => .error .reservedOpcode

/-- The command word of each command (30_encoding R74). -/
def encode : Instr → Word
  | .nop => 0x00000000
  | .compress => 0x00000001
  | .rotl => 0x00000002
  | .mix => 0x00000003

/-- The word a table row of `nbits` bits stands for, in the table's bit numbering: bit 0 is the least significant bit
of the command word (00_scope R13, 20_memory R56), and bits above `nbits` are 0. -/
def tableWord (nbits w : Nat) : Nat := w % 2 ^ nbits

/-- The command the decoder reads from a word of the opcode table. A command is one 32-bit word (30_encoding R77), so
a longer number is none. -/
def decodeTableWord (nbits w : Nat) : Option Instr :=
  if tableWord nbits w < 2 ^ 32 then
    match decode (BitVec.ofNat 32 (tableWord nbits w)) with
    | .ok i => some i
    | .error _ => none
  else none

end Sys2Proof
end

