-- ==== Sys2Proof/Config.lean ====
section
/-! DEFINITION. What an integration of the block fixes, and the values the spec leaves open
(00_scope R11, 93_implementation_defined §1 and §4). -/

namespace Sys2Proof

/-- FEED_FORWARD for this hardware: 1 (00_scope R11, 90_conflicts C1). The functions that depend on it take it as an
argument, so the alternative 0 stays available (log 9). -/
def Config.feedForward : Bool := true

/-- SHA1C_BASE in units of 0x200 bytes: open (00_scope R11, 93 P1; log 7), so it has no body. -/
opaque Config.baseBlock : Nat

/-- SHA1C_BASE: a multiple of 0x200 (00_scope R11). -/
def Config.base : Nat := 0x200 * Config.baseBlock

/-- The `n`-th free word of a run: what an UNSPECIFIED register holds (10_state R41, R42; 93 U1 to U3, treatment
`any value`; logs 1 and 2). It has no body, so no proof can know a value of it. -/
opaque Config.freeWord : Nat → Word

end Sys2Proof
end

