-- ==== Sys2Proof/Machine/State.lean ====
section
/-! DEFINITION. The state of one SHA1-CORE instance (10_state R20), what can happen to it, and its state after reset. -/

namespace Sys2Proof.Machine

/-- What PENDOP can hold (10_state R38): NOP is never pending. -/
inductive PendOp where
  | compress
  | rotl
  | mix
deriving DecidableEq, Repr

/-- PHASE with PENDOP (10_state R38): PENDOP holds the accepted command while busy and is meaningless while idle, so it
exists only while busy. -/
inductive Phase where
  | idle
  | busy (pendop : PendOp)
deriving DecidableEq, Repr

/-- The working variables a to e (10_state R35). -/
structure Work where
  a : Word
  b : Word
  c : Word
  d : Word
  e : Word
deriving DecidableEq, Repr

/-- The named words of the register window (20_memory R51). -/
inductive Reg where
  | w (j : Fin 80)
  | h (j : Fin 5)
  | opa
  | opb
  | opc
  | opi
  | res
  | cmd
  | status
  | id
deriving DecidableEq, Repr

/-- Whether the bus answers OK or BUS_ERROR (20_memory R52, R53). -/
inductive BusStatus where
  | ok
  | busError
deriving DecidableEq, Repr

/-- The block's response to one access: its status, and the data of a read (20_memory R52, R53). -/
structure Response where
  status : BusStatus
  data   : Option Word
deriving DecidableEq, Repr

/-- What can happen to the block (00_scope R18): a host access, a step of the core, or reset. An access is given by the
offset the block sees (20_memory R60), its size in bytes and, for a write, its data word. -/
inductive Event where
  /-- `MemRead`, 20_memory R52. -/
  | read (off : Offset) (size : Nat)
  /-- `MemWrite`, 20_memory R53. -/
  | write (off : Offset) (size : Nat) (value : Word)
  /-- One internal round of a pending COMPRESS (10_state R36, 40_compress R105). -/
  | round
  /-- The completion step of the pending command (10_state R40). -/
  | complete
  /-- Reset (70_reset R190). -/
  | reset
deriving DecidableEq, Repr

/-- The state of one instance (10_state R20) and three fields of the model's own, the last three. ID and K are
constants and CMD stores nothing, so they have no field; STATUS.BUSY is read from `phase` (10_state R38). -/
structure State where
  /-- W[0..79], the schedule (10_state R21). -/
  w : Vector Word 80
  /-- H[0..4], the state words (10_state R22). -/
  h : Vector Word 5
  /-- OPA (10_state R23). -/
  opa : Word
  /-- OPB (10_state R23). -/
  opb : Word
  /-- OPC (10_state R23). -/
  opc : Word
  /-- OPI (10_state R24). -/
  opi : Word
  /-- RES (10_state R25). -/
  res : Word
  /-- STATUS.DONE (10_state R32). -/
  done : Bool
  /-- STATUS.ERR (10_state R34). -/
  err : Bool
  /-- STATUS.ECODE (10_state R34). -/
  ecode : BitVec 4
  /-- PHASE and PENDOP (10_state R38). -/
  phase : Phase
  /-- a to e (10_state R35). -/
  work : Work
  /-- I (10_state R36). -/
  roundCounter : BitVec 7
  /-- Model's own: how many free words the run has taken (log 1). -/
  draws : Nat
  /-- Model's own: the events still to happen, the first at the head (log 3). -/
  schedule : List Event
  /-- Model's own: the response of the last access (log 4). -/
  resp : Option Response
deriving DecidableEq, Repr

/-- Why the machine stops. The spec stops it nowhere (60_exceptions R165, R170: an error is recorded and the machine
goes on). -/
inductive Fault where
  /-- Raised by the core's round and completion steps when a COMPRESS is pending and I is above 80. 10_state R36 says I
  never exceeds 80, and 40_compress R100 defines no band there. Safe: no state that meets the invariant reaches it. -/
  | roundCounterAbove80
deriving DecidableEq, Repr

/-- Why an instruction is refused. -/
inductive Refusal where
  /-- An instruction whose meaning is not written; no arm of exec uses it. Safe: the machine stops. -/
  | notModelled (mnemonic : String)
deriving DecidableEq, Repr

/-- 7-bit value of I drawn from a free word, kept within 0..80 (10_state R36; log 2). -/
def drawCounter (v : Word) : BitVec 7 := BitVec.ofNat 7 (v.toNat % 81)

/-- Working variables drawn from the free words `n` to `n + 4` (log 2). -/
def drawWork (n : Nat) : Work :=
  ⟨Config.freeWord n, Config.freeWord (n + 1), Config.freeWord (n + 2), Config.freeWord (n + 3), Config.freeWord (n + 4)⟩

/-- The state after a reset (10_state R41, 70_reset R192), when the run has taken `n` free words before it: every
UNSPECIFIED register holds a free word of its own (log 1). -/
def State.afterReset (n : Nat) : State where
  w := Vector.ofFn fun j => Config.freeWord (n + j)
  h := Vector.ofFn fun j => Config.freeWord (n + 80 + j)
  opa := Config.freeWord (n + 85)
  opb := Config.freeWord (n + 86)
  opc := Config.freeWord (n + 87)
  opi := Config.freeWord (n + 88)
  res := Config.freeWord (n + 89)
  done := false
  err := false
  ecode := 0
  phase := .idle
  work := drawWork (n + 90)
  roundCounter := drawCounter (Config.freeWord (n + 95))
  draws := n + 96
  schedule := []
  resp := none

/-- The machine right after its first reset, with nothing scheduled (10_state R41, 70_reset R192). -/
def State.reset : State := State.afterReset 0

/-- PHASE = BUSY (10_state R38). -/
def State.busy (s : State) : Bool := decide (s.phase ≠ .idle)

end Sys2Proof.Machine
end

