-- ==== Sys2Proof/Machine/Flags.lean ====
section
/-! DEFINITION. STATUS: its layout, its error codes and its write-1-to-clear rule (10_state R30 to R34, 60_exceptions
R160). The block has no other flag: carries are recorded nowhere (10_state R43). -/

namespace Sys2Proof.Machine

/-- The named errors (60_exceptions R160). -/
inductive ErrorKind where
  /-- A reserved command word written to CMD while idle (R163). -/
  | illegalCmd
  /-- A write to W, H, OPA, OPB, OPC, OPI or CMD while busy (R162). -/
  | busyViolation
  /-- A wrong size, a misalignment, a reserved offset, or a write to RES or ID (R161). -/
  | badAccess
  /-- Reserved for the source's InvalidInputSize; never raised (R164). -/
  | invalidInputSize
deriving DecidableEq, Repr

/-- The code ECODE records (60_exceptions R160); 0 is no error and 5 to 15 are reserved. -/
def ErrorKind.code : ErrorKind → BitVec 4
  | .illegalCmd => 1
  | .busyViolation => 2
  | .badAccess => 3
  | .invalidInputSize => 4

/-- One flag as a 32-bit word. -/
def flagWord (b : Bool) : Word := (BitVec.ofBool b).setWidth 32

/-- What a read of STATUS returns (20_memory R52): BUSY in bit 0, DONE in 1, ERR in 2, ECODE in 7:4, the rest 0
(10_state R30). -/
def State.statusWord (s : State) : Word :=
  (s.ecode.setWidth 32 <<< 4) ||| (flagWord s.err <<< 2) ||| (flagWord s.done <<< 1) ||| flagWord s.busy

/-- The DONE part of a STATUS write (10_state R30): bit 1 written 1 clears it. -/
def State.clearDone (v : Word) (s : State) : State :=
  if v.getLsbD 1 then { s with done := false } else s

end Sys2Proof.Machine
end

