-- ==== Sys2Proof/Machine/Operands.lean ====
section
/-! DEFINITION. The address map of the window, and the operands of the commands (20_memory R51, 30_encoding R72,
R73). -/

namespace Sys2Proof.Machine

/-- The constant ID reads as, "SHA1" in ASCII (10_state R33). -/
def idValue : Word := 0x53484131

/-- The byte offset of a register (20_memory R51). -/
def Reg.offset : Reg → Offset
  | .w j => BitVec.ofNat 9 (4 * j)
  | .h j => BitVec.ofNat 9 (0x140 + 4 * j)
  | .opa => 0x160
  | .opb => 0x164
  | .opc => 0x168
  | .opi => 0x16C
  | .res => 0x170
  | .cmd => 0x178
  | .status => 0x17C
  | .id => 0x180

/-- The register at word number `k` of the window, `off[8:2]` (20_memory R51); `none` is RESERVED. -/
def regAtWord (k : BitVec 7) : Option Reg :=
  if hw : k.toNat < 80 then some (.w ⟨k.toNat, hw⟩)
  else if hh : k.toNat - 80 < 5 then some (.h ⟨k.toNat - 80, hh⟩)
  else if k = 88 then some .opa
  else if k = 89 then some .opb
  else if k = 90 then some .opc
  else if k = 91 then some .opi
  else if k = 92 then some .res
  else if k = 94 then some .cmd
  else if k = 95 then some .status
  else if k = 96 then some .id
  else none

/-- The register an access of `size` bytes at `off` reaches; `none` where its size, alignment or offset makes it
BAD_ACCESS (20_memory R52 to R55). -/
def accessed (off : Offset) (size : Nat) : Option Reg :=
  if size = 4 ∧ off.extractLsb' 0 2 = 0 then regAtWord (off.extractLsb' 2 7) else none

/-- What a host may do to a register by writing it (20_memory R51, R53). -/
inductive WriteClass where
  /-- A data register, written while idle only. -/
  | input
  /-- CMD: issues a command, while idle only. -/
  | command
  /-- STATUS: write 1 to clear, at any time. -/
  | writeOneToClear
  /-- RES and ID: a write is BAD_ACCESS. -/
  | readOnly
deriving DecidableEq, Repr

/-- The write class of each register (20_memory R51, R53). -/
def Reg.writeClass : Reg → WriteClass
  | .w _ => .input
  | .h _ => .input
  | .opa => .input
  | .opb => .input
  | .opc => .input
  | .opi => .input
  | .res => .readOnly
  | .cmd => .command
  | .status => .writeOneToClear
  | .id => .readOnly

/-- What a read of a register returns (20_memory R52). -/
def State.readReg (s : State) : Reg → Word
  | .w j => s.w[j]
  | .h j => s.h[j]
  | .opa => s.opa
  | .opb => s.opb
  | .opc => s.opc
  | .opi => s.opi
  | .res => s.res
  | .cmd => 0
  | .status => s.statusWord
  | .id => idValue

/-- Storing a word into a data register a host may write (20_memory R53). The other registers have no such store: RES
is the core's, CMD and ID hold nothing, STATUS is written through its clear rule. -/
def State.storeReg (s : State) (r : Reg) (v : Word) : State :=
  match r with
  | .w j => { s with w := s.w.set j v }
  | .h j => { s with h := s.h.set j v }
  | .opa => { s with opa := v }
  | .opb => { s with opb := v }
  | .opc => { s with opc := v }
  | .opi => { s with opi := v }
  | .res => s
  | .cmd => s
  | .status => s
  | .id => s

/-- The round index MIX reads: `sint32(OPI)` (10_state R24, 30_encoding R73). -/
def State.roundIndex (s : State) : Int := s.opi.toInt

end Sys2Proof.Machine
end

