-- ==== Sys2Proof/Machine/Ops.lean ====
section
/-! DEFINITION. The operations every command and access shares: recording and clearing an error, acceptance,
completion, reset, and the block's responses. -/

namespace Sys2Proof.Machine

/-- Recording an error, all of it (60_exceptions R165): the first error since ERR was clear is kept. It is the only
exception mechanism: nothing is saved, no mode changes and nothing is jumped to (R170). -/
def raise (e : ErrorKind) (s : State) : State :=
  if s.err then s else { s with err := true, ecode := e.code }

/-- Acknowledging an error, the counterpart of `raise` (60_exceptions R171): the ERR part of a STATUS write, where bit 2
written 1 clears ERR and ECODE (10_state R30, R34). -/
def clearError (v : Word) (s : State) : State :=
  if v.getLsbD 2 then { s with err := false, ecode := 0 } else s

/-- A write of `v` to STATUS (20_memory R53, 10_state R30). -/
def writeStatus (v : Word) (s : State) : State := clearError v (s.clearDone v)

/-- The bus response of an access. -/
def respond (status : BusStatus) (data : Option Word) (s : State) : State :=
  { s with resp := some ⟨status, data⟩ }

/-- The state with another schedule: the first event taken off, or an event added. -/
def State.withSchedule (es : List Event) (s : State) : State := { s with schedule := es }

/-- Acceptance of a command (10_state R39), less the loading of the working registers, which is COMPRESS's own. -/
def accept (op : PendOp) (s : State) : State :=
  { s with phase := .busy op, done := false }

/-- What a CMD write of a known command does (20_memory R53, 60_exceptions R162): `f` while idle, and BUSY_VIOLATION
with no other effect while busy. -/
def whenIdle (f : State → State) (s : State) : State :=
  if s.busy then raise .busyViolation s else f s

/-- The part of the completion step that every command shares (10_state R40). -/
def finish (s : State) : State := { s with phase := .idle, done := true }

/-- A completion that writes RES (10_state R25, R40). -/
def finishRes (v : Word) (s : State) : State := finish { s with res := v }

/-- A completion that writes all of H, in one step (10_state R22, R40). -/
def finishState (v : Vector Word 5) (s : State) : State := finish { s with h := v }

/-- The working registers and I outside a COMPRESS hold free values (10_state R35, 93 U2; log 2). -/
def releaseWork (s : State) : State :=
  { s with work := drawWork s.draws, roundCounter := drawCounter (Config.freeWord (s.draws + 5)), draws := s.draws + 6 }

/-- Reset in any state (70_reset R190, R191): the state after a reset, with free words not used before. What is still
scheduled is the outside world's and stays. -/
def resetNow (s : State) : State := (State.afterReset s.draws).withSchedule s.schedule

end Sys2Proof.Machine
end

