-- ==== Sys2Proof/Machine/Mix.lean ====
section
/-! DEFINITION. The round-function mixer and MIX (42_mix). -/

namespace Sys2Proof.Machine

/-- Band 0: choose (42_mix R140). -/
def choose (b c d : Word) : Word := (b &&& c) ||| (~~~b &&& d)

/-- Bands 1 and 3: parity (42_mix R140). -/
def parity (b c d : Word) : Word := b ^^^ c ^^^ d

/-- Band 2: majority (42_mix R140). -/
def majority (b c d : Word) : Word := (b &&& c) ||| (b &&& d) ||| (c &&& d)

/-- `mix(i, b, c, d)` (42_mix R140): an index below 0 or above 79 gives 0 (90_conflicts C3). -/
def mix (i : Int) (b c d : Word) : Word :=
  if 0 ≤ i ∧ i ≤ 19 then choose b c d
  else if 20 ≤ i ∧ i ≤ 39 then parity b c d
  else if 40 ≤ i ∧ i ≤ 59 then majority b c d
  else if 60 ≤ i ∧ i ≤ 79 then parity b c d
  else 0

/-- MIX's acceptance (42_mix R141). -/
def execMix (s : State) : Host.Outcome State Fault Refusal :=
  .next (whenIdle (accept .mix) s)

/-- MIX's completion (42_mix R141): RES <- mix(sint32(OPI), OPA, OPB, OPC). -/
def completeMix (s : State) : State :=
  finishRes (mix s.roundIndex s.opa s.opb s.opc) s

end Sys2Proof.Machine
end

