-- ==== Sys2Proof/Machine/Rotate.lean ====
section
/-! DEFINITION. The rotate-left-32 barrel and ROTL (41_rotate). -/

namespace Sys2Proof.Machine

/-- `rotl32(v, s)` (41_rotate R130). No shift by 32 occurs: the reduced shift 0 has its own case. -/
def rotl32 (v s : Word) : Word :=
  let r := s &&& 31
  if r = 0 then v else (v <<< r) ||| (v >>> (32 - r))

/-- ROTL's acceptance (41_rotate R131). -/
def execRotl (s : State) : Host.Outcome State Fault Refusal :=
  .next (whenIdle (accept .rotl) s)

/-- ROTL's completion (41_rotate R131): RES <- rotl32(OPA, OPB). -/
def completeRotl (s : State) : State :=
  finishRes (rotl32 s.opa s.opb) s

end Sys2Proof.Machine
end

