-- ==== Sys2Proof/Machine/Compress.lean ====
section
/-! DEFINITION. The round constants, the round, the compression function and COMPRESS (40_compress). -/

namespace Sys2Proof.Machine

/-- K[0..3], the round constants (10_state R37). -/
def kTable : Vector Word 4 := #v[0x5A827999, 0x6ED9EBA1, 0x8F1BBCDC, 0xCA62C1D6]

/-- `band(i) = i div 20`, defined for the round indices 0 to 79 only (40_compress R100). -/
def band (i : Fin 80) : Fin 4 := ⟨i.val / 20, by omega⟩

/-- `K(i) = K[band(i)]` (40_compress R101). -/
def roundConstant (i : Fin 80) : Word := kTable[band i]

/-- The five-operand adder: the exact sum, reduced modulo 2^32 (40_compress R102). -/
def add5 (p q r s t : Word) : Word :=
  BitVec.ofNat 32 (p.toNat + q.toNat + r.toNat + s.toNat + t.toNat)

/-- One round (40_compress R103): every operand on the right is a value from before the round (R106). -/
def roundOf (i : Fin 80) (x : Work) (w : Word) : Work where
  a := add5 (rotl32 x.a 5) (mix i.val x.b x.c x.d) x.e w (roundConstant i)
  b := x.a
  c := rotl32 x.b 30
  d := x.c
  e := x.d

/-- The rounds whose indices `is` lists, in that order, round `i` with schedule word `W[i]`. -/
def rounds (w : Vector Word 80) (is : List (Fin 80)) (x : Work) : Work :=
  is.foldl (fun x i => roundOf i x w[i]) x

/-- a, b, c, d, e <- h0, ..., h4 (40_compress R104). -/
def loadState (h : Vector Word 5) : Work := ⟨h[0], h[1], h[2], h[3], h[4]⟩

/-- What goes back to H after round 79 (40_compress R104): the feed-forward sums modulo 2^32, or the working variables
unchanged when FEED_FORWARD is 0. -/
def writeBack (ff : Bool) (h : Vector Word 5) (x : Work) : Vector Word 5 :=
  if ff then #v[h[0] + x.a, h[1] + x.b, h[2] + x.c, h[3] + x.d, h[4] + x.e]
  else #v[x.a, x.b, x.c, x.d, x.e]

/-- `compress(Wv, Hv)` (40_compress R104): the 80 rounds 0, 1, ..., 79, then the write-back. -/
def compress (ff : Bool) (w : Vector Word 80) (h : Vector Word 5) : Vector Word 5 :=
  writeBack ff h (rounds w (List.finRange 80) (loadState h))

/-- COMPRESS's acceptance loads the working registers from H and clears I (10_state R39). -/
def loadWork (s : State) : State :=
  { s with work := loadState s.h, roundCounter := 0 }

/-- COMPRESS's acceptance (40_compress R105). -/
def execCompress (s : State) : Host.Outcome State Fault Refusal :=
  .next (whenIdle (fun s => loadWork (accept .compress s)) s)

/-- Round `i` on the working registers, and the counter one further (10_state R36). -/
def advanceRound (i : Fin 80) (s : State) : State :=
  { s with work := roundOf i s.work s.w[i], roundCounter := s.roundCounter + 1 }

/-- Round I of a pending COMPRESS (10_state R36, 40_compress R105); when I is 80 the rounds have ended and nothing is
left to do but the completion. -/
def compressRound (s : State) : Host.Outcome State Fault Refusal :=
  if h : s.roundCounter.toNat < 80 then .next (advanceRound ⟨s.roundCounter.toNat, h⟩ s)
  else if s.roundCounter.toNat = 80 then .next s
  else .fault .roundCounterAbove80

/-- The working variables after round 79, from those after round I - 1: the rounds that I says are still to come. -/
def remainingRounds (s : State) : Work :=
  rounds s.w ((List.finRange 80).drop s.roundCounter.toNat) s.work

/-- COMPRESS's completion (10_state R40, R35; 40_compress R105): the rounds still to come, all in this one step, then
the write-back into H. Afterwards the working registers and I hold free values (log 2). -/
def completeCompress (ff : Bool) (s : State) : Host.Outcome State Fault Refusal :=
  if s.roundCounter.toNat ≤ 80 then
    .next (releaseWork (finishState (writeBack ff s.h (remainingRounds s)) s))
  else .fault .roundCounterAbove80

end Sys2Proof.Machine
end

