-- ==== Sys2Proof/Machine/Control.lean ====
section
/-! DEFINITION. NOP (43_control R150). -/

namespace Sys2Proof.Machine

/-- NOP: nothing changes while idle; BUSY_VIOLATION while busy, as for every CMD write (43_control R150). -/
def execNop (s : State) : Host.Outcome State Fault Refusal :=
  .next (whenIdle id s)

end Sys2Proof.Machine
end

