-- ==== Sys2Proof/Machine/Dispatch.lean ====
section
/-! DEFINITION. The meaning of each command when its word is written to CMD (30_encoding R75, 10_state R39). -/

namespace Sys2Proof.Machine

def exec (i : Instr) (s : State) : Host.Outcome State Fault Refusal :=
  match i with
  | .nop => Sys2Proof.Machine.execNop s
  | .compress => Sys2Proof.Machine.execCompress s
  | .rotl => Sys2Proof.Machine.execRotl s
  | .mix => Sys2Proof.Machine.execMix s

end Sys2Proof.Machine
end

