-- ==== Sys2Proof/Machine/Bus.lean ====
section
/-! DEFINITION. What each event does: the two host accesses (20_memory R52, R53), the core's steps (10_state R36, R40)
and reset (70_reset R190). -/

namespace Sys2Proof.Machine

/-- An access that is BAD_ACCESS (60_exceptions R161): the error is recorded, the bus answers BUS_ERROR, and nothing
else changes. -/
def badAccess (data : Option Word) (s : State) : State :=
  respond .busError data (raise .badAccess s)

/-- `MemRead` (20_memory R52). -/
def memRead (off : Offset) (size : Nat) (s : State) : State :=
  match accessed off size with
  | none => badAccess (some 0) s
  | some r => respond .ok (some (s.readReg r)) s

/-- `issue(v)` (30_encoding R75), once the address and busy checks have passed. -/
def issue (v : Word) (s : State) : Host.Outcome State Fault Refusal :=
  match decode v with
  | .error _ => .next (raise .illegalCmd s)
  | .ok i => exec i s

/-- A write, answered OK, to a register of the given class (20_memory R53): the busy check comes before the data. -/
def writeReg (r : Reg) (v : Word) (s : State) : Host.Outcome State Fault Refusal :=
  match r.writeClass with
  | .readOnly => .next (badAccess none s)
  | .writeOneToClear => .next (respond .ok none (writeStatus v s))
  | .input =>
    if s.busy then .next (respond .ok none (raise .busyViolation s))
    else .next (respond .ok none (s.storeReg r v))
  | .command =>
    if s.busy then .next (respond .ok none (raise .busyViolation s))
    else issue v (respond .ok none s)

/-- `MemWrite` (20_memory R53), its checks in the order written (60_exceptions R167). -/
def memWrite (off : Offset) (size : Nat) (v : Word) (s : State) : Host.Outcome State Fault Refusal :=
  match accessed off size with
  | none => .next (badAccess none s)
  | some r => writeReg r v s

/-- One internal round, if a COMPRESS is pending; otherwise nothing is enabled and nothing changes (log 3). -/
def coreRound (s : State) : Host.Outcome State Fault Refusal :=
  match s.phase with
  | .idle => .next s
  | .busy .compress => compressRound s
  | .busy .rotl => .next s
  | .busy .mix => .next s

/-- The completion step (10_state R40); while idle it is not enabled and nothing changes (log 3). -/
def coreComplete (ff : Bool) (s : State) : Host.Outcome State Fault Refusal :=
  match s.phase with
  | .idle => .next s
  | .busy .compress => completeCompress ff s
  | .busy .rotl => .next (completeRotl s)
  | .busy .mix => .next (completeMix s)

/-- The core left to itself: one round of a pending COMPRESS while I is below 80, then the completion (40_compress
R109; log 8). -/
def coreClock (ff : Bool) (s : State) : Host.Outcome State Fault Refusal :=
  if s.phase = .busy .compress ∧ s.roundCounter.toNat < 80 then coreRound s else coreComplete ff s

/-- What one event does. -/
def perform (ff : Bool) (e : Event) (s : State) : Host.Outcome State Fault Refusal :=
  match e with
  | .read off size => .next (memRead off size s)
  | .write off size v => memWrite off size v s
  | .round => coreRound s
  | .complete => coreComplete ff s
  | .reset => .next (resetNow s)

/-- One step for either value of FEED_FORWARD: the event at the head of the schedule, or the core left to itself where
nothing is scheduled (logs 3 and 8). -/
def stepWith (ff : Bool) (s : State) : Host.Outcome State Fault Refusal :=
  match s.schedule with
  | [] => coreClock ff s
  | e :: rest => perform ff e (s.withSchedule rest)

end Sys2Proof.Machine
end

