-- ==== Sys2Proof/Machine/Step.lean ====
section
/-! DEFINITION. One step of the machine, and the placing of the next command. -/

namespace Sys2Proof.Machine

/-- One step of this hardware: FEED_FORWARD is 1 (00_scope R11). -/
def step (s : State) : Host.Outcome State Fault Refusal := stepWith Config.feedForward s

/-- The block fetches no instructions (10_state R28): a command reaches it as a host write to CMD. So the next command
is placed as the very next event, a 4-byte write of its word to CMD (log 10). -/
def State.withFetchWord (s : State) (nbits w : Nat) : State :=
  s.withSchedule (.write Reg.cmd.offset 4 (BitVec.ofNat 32 (tableWord nbits w)) :: s.schedule)

end Sys2Proof.Machine
end

