-- ==== Sys2Proof/Machine/HostProgram.lean ====
section
/-! DEFINITION. The host's side of the window: absolute addresses (20_memory R50, 43_control R153), the lines of a host
program (30_encoding R78) and the pseudo-instructions (R79). -/

namespace Sys2Proof.Machine

/-- The offset of a byte address in the window that starts at `base`; none outside it, where an access does not reach
the block (20_memory R50). -/
def windowOffset (base addr : Nat) : Option Offset :=
  if base ≤ addr ∧ addr < base + 0x200 then some (BitVec.ofNat 9 (addr - base)) else none

/-- The host's address of a register: SHA1C_BASE + offset (43_control R153). -/
def Reg.address (base : Nat) (r : Reg) : Nat := base + r.offset.toNat

/-- `MemRead(addr, n)` by a host: it arrives after every access already on its way (20_memory R61, R63). -/
def State.hostRead (base addr size : Nat) (s : State) : State :=
  match windowOffset base addr with
  | some off => s.withSchedule (s.schedule ++ [.read off size])
  | none => s

/-- `MemWrite(addr, n, v)` by a host: it arrives after every access already on its way (20_memory R61, R63). -/
def State.hostWrite (base addr size : Nat) (v : Word) (s : State) : State :=
  match windowOffset base addr with
  | some off => s.withSchedule (s.schedule ++ [.write off size v])
  | none => s

/-- `WR <reg>, <value32>` (30_encoding R78). -/
def lineWR (r : Reg) (v : Word) : Event := .write r.offset 4 v

/-- `RD <reg>` (30_encoding R78). -/
def lineRD (r : Reg) : Event := .read r.offset 4

/-- `WAIT` (30_encoding R79) when its loop ends after `polls` reads of STATUS; `waitEnds` says which read ends it. -/
def pseudoWAIT (polls : Nat) : List Event := List.replicate polls (lineRD .status)

/-- The exit test of `WAIT`: the STATUS just read has bit 0, BUSY, clear. -/
def waitEnds (s : State) : Bool :=
  match s.resp with
  | some ⟨.ok, some v⟩ => !v.getLsbD 0
  | _ => false

/-- `CHECK` (30_encoding R79): one read of STATUS; `checkPasses` is what it requires. -/
def pseudoCHECK : List Event := [lineRD .status]

/-- What `CHECK` requires: the STATUS just read has bit 2, ERR, clear. DESIGN CHOICE (log 17): 30_encoding R79 asks for
no more, and 70_reset R197 has the same `CHECK` ask for DONE = 1 as well, which is `checkCompleted`. -/
def checkPasses (s : State) : Bool :=
  match s.resp with
  | some ⟨.ok, some v⟩ => !v.getLsbD 2
  | _ => false

/-- What `CHECK` requires in the safe sequence of 70_reset R197: the STATUS just read has ERR clear and bit 1, DONE,
set, so the command completed (log 17). -/
def checkCompleted (s : State) : Bool :=
  match s.resp with
  | some ⟨.ok, some v⟩ => !v.getLsbD 2 && v.getLsbD 1
  | _ => false

/-- `CLEAR` (30_encoding R79). -/
def pseudoCLEAR : List Event := [lineWR .status 0x00000006]

/-- `LOADW Wv` (30_encoding R79). -/
def pseudoLOADW (wv : Vector Word 80) : List Event := (List.finRange 80).map fun j => lineWR (.w j) wv[j]

/-- `LOADH Hv` (30_encoding R79). -/
def pseudoLOADH (hv : Vector Word 5) : List Event := (List.finRange 5).map fun j => lineWR (.h j) hv[j]

/-- `READH` (30_encoding R79). -/
def pseudoREADH : List Event := (List.finRange 5).map fun j => lineRD (.h j)

/-- `DO_COMPRESS` (30_encoding R79). -/
def pseudoDOCOMPRESS (polls : Nat) : List Event :=
  lineWR .cmd (encode .compress) :: (pseudoWAIT polls ++ pseudoCHECK)

/-- `ROTL32 v, s -> r` (30_encoding R79). -/
def pseudoROTL32 (v s : Word) (polls : Nat) : List Event :=
  [lineWR .opa v, lineWR .opb s, lineWR .cmd (encode .rotl)] ++ pseudoWAIT polls ++ pseudoCHECK ++ [lineRD .res]

/-- `MIX32 i, b, c, d -> r` (30_encoding R79). -/
def pseudoMIX32 (i b c d : Word) (polls : Nat) : List Event :=
  [lineWR .opi i, lineWR .opa b, lineWR .opb c, lineWR .opc d, lineWR .cmd (encode .mix)] ++ pseudoWAIT polls
    ++ pseudoCHECK ++ [lineRD .res]

/-! The end of a host program (70_reset R202) -/

/-- How far one host is in its program: the accesses it has still to perform, and whether it wrote a command after which
it has not yet seen BUSY = 0. -/
structure HostProgress where
  left   : List Event
  unseen : Bool
deriving DecidableEq, Repr

/-- A host at the start of its program. -/
def HostProgress.start (lines : List Event) : HostProgress := ⟨lines, false⟩

/-- The access writes a command: a 4-byte write to CMD of a word that decodes, NOP among them (log 18). -/
def writesCommand : Event → Bool
  | .read _ _ => false
  | .write off size v => decide (accessed off size = some .cmd) && commandWordWellFormed v
  | .round => false
  | .complete => false
  | .reset => false

/-- The access, after which the state is `t`, is a read of STATUS that showed BUSY = 0. -/
def seesIdle (e : Event) (t : State) : Bool := decide (e = lineRD .status) && waitEnds t

/-- The host has performed its next access, after which the state is `t`. -/
def HostProgress.perform (e : Event) (t : State) (p : HostProgress) : HostProgress where
  left := p.left.tail
  unseen := writesCommand e || (p.unseen && !seesIdle e t)

/-- The host after one step of the machine from `s` to `t`. The step is its own when it is marked so and the event is
the next line of its program; every other step is another host's, the core's or a reset, and is nothing to it
(log 18). -/
def HostProgress.after (own : Bool) (s t : State) (p : HostProgress) : HostProgress :=
  match s.schedule with
  | [] => p
  | e :: _ => if own = true ∧ p.left.head? = some e then p.perform e t else p

/-- A run of the machine beside one host, one step for each mark; none where the machine stops. -/
def hostRun : List Bool → HostProgress → State → Option (HostProgress × State)
  | [], p, s => some (p, s)
  | own :: marks, p, s =>
    match step s with
    | .next t => hostRun marks (p.after own s t) t
    | .fault _ => none
    | .refused _ => none

/-- The program has ended: the host has performed its last listed access and, if it wrote a command, has seen BUSY = 0
after it (70_reset R202). What other hosts, the core and reset have still to do is no part of this. -/
def programEnded (p : HostProgress) : Bool := p.left.isEmpty && !p.unseen

/-- The registers that are a host program's end state (70_reset R202). -/
structure EndState where
  status : Word
  w      : Vector Word 80
  h      : Vector Word 5
  opa    : Word
  opb    : Word
  opc    : Word
  opi    : Word
  res    : Word
deriving DecidableEq, Repr

/-- The block's register contents as an end state. -/
def State.endState (s : State) : EndState := ⟨s.statusWord, s.w, s.h, s.opa, s.opb, s.opc, s.opi, s.res⟩

end Sys2Proof.Machine
end

