-- ==== Sys2Proof/Safety.lean ====
section
/-! DEFINITION. The invariant every step keeps, what counts as a run without errors, and states equal but for the hidden
registers. The end of a host program is `programEnded` in Machine/HostProgram.lean. -/

namespace Sys2Proof.Machine

/-- The rounds before round I, from H as it is: what the working registers hold during a COMPRESS (10_state R35,
40_compress R105). -/
def roundsDone (s : State) : Work :=
  rounds s.w ((List.finRange 80).take s.roundCounter.toNat) (loadState s.h)

/-- What every state of a run meets. -/
structure Inv (s : State) : Prop where
  /-- DONE is 0 while a command is pending (10_state R31, R32). -/
  doneOnlyIdle : s.busy = true → s.done = false
  /-- ECODE is 0 exactly when ERR is 0 (10_state R34). -/
  codeIffError : s.err = false ↔ s.ecode = 0
  /-- ECODE is 0 or the code of an error that is raised: 4 and the reserved codes do not occur (60_exceptions R160,
  R164). -/
  codeRaised : s.ecode.toNat ≤ 3
  /-- I never exceeds 80 (10_state R36). -/
  counterBound : s.roundCounter.toNat ≤ 80
  /-- While a COMPRESS is pending, the working registers hold the state after the rounds before I. -/
  workingRounds : s.phase = .busy .compress → s.work = roundsDone s

/-- No access since ERR was last cleared has failed (70_reset R197). -/
def State.errorFree (s : State) : Bool := !s.err

/-- Equal but for what no host access reads and no command uses before loading it: the working registers and I, outside
a COMPRESS (10_state R35, R36; 93 U2). -/
def sameVisible (s t : State) : Prop :=
  t = { s with work := t.work, roundCounter := t.roundCounter } ∧
    (s.phase = .busy .compress → t = s)

end Sys2Proof.Machine
end

