-- ==== Sys2Proof/Certificates/Slice0/Obligations.lean ====
section
/-! DEFINITION. The statements for the provers, file by file of the spec. -/

open Sys2Proof Sys2Proof.Machine

namespace Sys2Proof.Machine

/-- The size, alignment and reserved-offset causes of BAD_ACCESS in numbers (60_exceptions R161). -/
abbrev badPlace (off : Offset) (size : Nat) : Prop :=
  size ≠ 4 ∨ off.toNat % 4 ≠ 0 ∨ (0x154 ≤ off.toNat ∧ off.toNat ≤ 0x15C) ∨ off.toNat = 0x174 ∨ 0x184 ≤ off.toNat

/-- A write that is BAD_ACCESS: a bad place, or a write to RES or ID (60_exceptions R161). -/
abbrev badWrite (off : Offset) (size : Nat) : Prop :=
  badPlace off size ∨ off.toNat = 0x170 ∨ off.toNat = 0x180

/-- The offsets of W, H, OPA, OPB, OPC, OPI and CMD in numbers, for an access that is no BAD_ACCESS (60_exceptions
R162). -/
abbrev closedWhileBusy (off : Offset) : Prop :=
  off.toNat ≤ 0x150 ∨ (0x160 ≤ off.toNat ∧ off.toNat ≤ 0x16C) ∨ off.toNat = 0x178

/-- A reserved command word (60_exceptions R163): a bit of v[31:4] is set, or v[3:0] is 4 or more. -/
abbrev reservedWord (v : Word) : Prop := v.extractLsb' 4 28 ≠ 0 ∨ 4 ≤ (v.extractLsb' 0 4).toNat

/-- The event writes a command (30_encoding R74): a 4-byte write to CMD of one of the words 0 to 3. -/
abbrev isCommandWrite (e : Event) : Prop := ∃ v : Word, v.toNat ≤ 3 ∧ e = .write 0x178 4 v

/-- Step `k` of the run from `s`, whose events are `evs`, is the host's own 4-byte read of STATUS and is performed in a
state with BUSY = 0. -/
abbrev ownReadSeesIdle (s : State) (marks : List Bool) (evs : List Event) (k : Nat) : Prop :=
  marks[k]? = some true ∧ evs[k]? = some (.read 0x17C 4) ∧ ∃ x : State, core.run k s = .next x ∧ x.busy = false

end Sys2Proof.Machine

/-! ### Commands and their encoding (30_encoding) -/

/-- R74, the opcode map: the four words and the twelve reserved opcodes. -/
def Obligations.OpcodeMapWords : Prop :=
  decode 0x00000000 = .ok .nop ∧ decode 0x00000001 = .ok .compress ∧ decode 0x00000002 = .ok .rotl ∧
    decode 0x00000003 = .ok .mix ∧
    ∀ k : Nat, 4 ≤ k → k ≤ 0xF → decode (BitVec.ofNat 32 k) = .error .reservedOpcode

/-- R74: the decoder reads every well-formed command back from its word. -/
def Obligations.DecodeOfEncodeIsTheCommand : Prop :=
  ∀ i : Instr, i.wellFormed = true → decode (encode i) = .ok i ∧ commandWordWellFormed (encode i) = true

/-- R75, R76: a 32-bit word is a command exactly when it is that command's one word, and is well formed exactly when it
is some command's. -/
def Obligations.EveryWordHasOneMeaning : Prop :=
  ∀ v : Word, (∀ i : Instr, decode v = .ok i ↔ v = encode i) ∧
    (commandWordWellFormed v = true ↔ ∃ i, decode v = .ok i) ∧
    ((∃ x, decode v = .error x) ↔ reservedWord v)

/-- R163: a reserved word written to CMD while idle. -/
def Obligations.ReservedWordRaisesIllegalCmd : Prop :=
  ∀ (s : State) (v : Word), s.phase = .idle → reservedWord v →
    memWrite 0x178 4 v s = .next { s with
      err := true, ecode := if s.err then s.ecode else 1, resp := some ⟨.ok, none⟩ }

/-- A step runs the decoded command: when the next event is a 4-byte write to CMD of a word that decodes to i, the step
is exec of i, after the event is taken off the schedule and the bus has answered OK (30_encoding R75, 20_memory R53). -/
def Obligations.StepRunsTheDecodedCommand : Prop :=
  ∀ (s : State) (v : Word) (i : Instr) (rest : List Event),
    s.schedule = .write 0x178 4 v :: rest → decode v = .ok i →
      step s = exec i { s with schedule := rest, resp := some ⟨.ok, none⟩ }

/-- The command placed by withFetchWord is the one the very next step runs. The placing is the model's own (log 10). -/
def Obligations.PlacedCommandRunsNext : Prop :=
  ∀ (s : State) (i : Instr), decodeTableWord 32 (encode i).toNat = some i ∧
    step (s.withFetchWord 32 (encode i).toNat) = exec i { s with resp := some ⟨.ok, none⟩ }

/-- A step performs the event at the head of the schedule (00_scope R18). The schedule, and that an event of the core
which is not enabled changes nothing, are the model's own (log 3). That an idle block with nothing scheduled keeps its
state is the model's own too (log 8). -/
def Obligations.StepPerformsTheNextEvent : Prop :=
  ∀ (s : State) (rest : List Event),
    (∀ off n, s.schedule = .read off n :: rest → step s = .next (memRead off n { s with schedule := rest })) ∧
    (∀ off n v, s.schedule = .write off n v :: rest → step s = memWrite off n v { s with schedule := rest }) ∧
    (s.schedule = .complete :: rest → step s = coreComplete true { s with schedule := rest }) ∧
    (s.schedule = .round :: rest → step s = coreRound { s with schedule := rest }) ∧
    (s.schedule = .reset :: rest → step s = .next (resetNow { s with schedule := rest })) ∧
    (s.schedule = [] → s.phase = .idle → step s = .next s) ∧
    (s.phase = .idle → coreRound s = .next s ∧ coreComplete true s = .next s)

/-! ### The functions (40_compress, 41_rotate, 42_mix) -/

/-- R130: the rotation by r = s & 31, both as it is computed and bit by bit. -/
def Obligations.RotlIsTheBarrel : Prop :=
  ∀ v s : Word,
    (s &&& 31 = 0 → rotl32 v s = v) ∧
    (s &&& 31 ≠ 0 → rotl32 v s = (v <<< (s &&& 31)) ||| (v >>> (32 - (s &&& 31)))) ∧
    ∀ k : Nat, k < 32 → (rotl32 v s).getLsbD k = v.getLsbD ((k + 32 - (s &&& 31).toNat) % 32)

/-- R132: the four laws of rotl32. -/
def Obligations.RotlLaws : Prop :=
  (∀ v s : Word, rotl32 (rotl32 v s) (32 - s) = v) ∧
  (∀ v : Word, rotl32 v 0 = v ∧ rotl32 v 32 = v) ∧
  (∀ v s : Word, rotl32 v s = rotl32 v (s % 32)) ∧
  (∀ v s t : Word, rotl32 (rotl32 v s) t = rotl32 v ((s % 32 + t % 32) % 32))

/-- R140: the four bands, 0 outside them, and each bit of the result depends on that bit of b, c and d alone. -/
def Obligations.MixFollowsTheBands : Prop :=
  ∀ (i : Int) (b c d : Word),
    (0 ≤ i → i ≤ 19 → mix i b c d = (b &&& c) ||| (~~~b &&& d)) ∧
    (20 ≤ i → i ≤ 39 → mix i b c d = b ^^^ c ^^^ d) ∧
    (40 ≤ i → i ≤ 59 → mix i b c d = (b &&& c) ||| (b &&& d) ||| (c &&& d)) ∧
    (60 ≤ i → i ≤ 79 → mix i b c d = b ^^^ c ^^^ d) ∧
    (i < 0 ∨ 79 < i → mix i b c d = 0) ∧
    ∀ (k : Nat) (b' c' d' : Word), b.getLsbD k = b'.getLsbD k → c.getLsbD k = c'.getLsbD k →
      d.getLsbD k = d'.getLsbD k → (mix i b c d).getLsbD k = (mix i b' c' d').getLsbD k

/-- R142: wherever two neighbouring formulas differ, the two sides of the band edge differ; choose and parity do differ
somewhere. -/
def Obligations.MixBandEdges : Prop :=
  (∀ b c d : Word,
    ((b &&& c) ||| (~~~b &&& d) ≠ b ^^^ c ^^^ d → mix 19 b c d ≠ mix 20 b c d) ∧
    (b ^^^ c ^^^ d ≠ (b &&& c) ||| (b &&& d) ||| (c &&& d) → mix 39 b c d ≠ mix 40 b c d) ∧
    ((b &&& c) ||| (b &&& d) ||| (c &&& d) ≠ b ^^^ c ^^^ d → mix 59 b c d ≠ mix 60 b c d)) ∧
  ∃ b c d : Word, mix 19 b c d ≠ mix 20 b c d

/-- R102: the sum modulo 2^32 of the exact sum, which is at most 5 * (2^32 - 1) < 2^35, in any order of the operands. -/
def Obligations.FiveOperandAdder : Prop :=
  (∀ p q r s t : Word,
    (add5 p q r s t).toNat = (p.toNat + q.toNat + r.toNat + s.toNat + t.toNat) % 2 ^ 32 ∧
    p.toNat + q.toNat + r.toNat + s.toNat + t.toNat ≤ 5 * (2 ^ 32 - 1) ∧ 5 * (2 ^ 32 - 1) < 2 ^ 35) ∧
  ∀ (f : Fin 5 → Word) (σ : Equiv.Perm (Fin 5)),
    add5 (f (σ 0)) (f (σ 1)) (f (σ 2)) (f (σ 3)) (f (σ 4)) = add5 (f 0) (f 1) (f 2) (f 3) (f 4)

/-- R101: the constant of each round. -/
def Obligations.RoundConstantByBand : Prop :=
  ∀ i : Fin 80,
    (i.val ≤ 19 → roundConstant i = 0x5A827999) ∧
    (20 ≤ i.val → i.val ≤ 39 → roundConstant i = 0x6ED9EBA1) ∧
    (40 ≤ i.val → i.val ≤ 59 → roundConstant i = 0x8F1BBCDC) ∧
    (60 ≤ i.val → roundConstant i = 0xCA62C1D6)

/-- R143: two rounds of one band use the same formula and the same constant; where the band changes from one round to the
next, both change; and no round reaches mix's fallback. -/
def Obligations.MixerAndConstantSwitchTogether : Prop :=
  (∀ i j : Fin 80, i.val / 20 = j.val / 20 →
    roundConstant i = roundConstant j ∧ ∀ b c d, mix i.val b c d = mix j.val b c d) ∧
  (∀ i j : Fin 80, i.val / 20 ≠ j.val / 20 → roundConstant i ≠ roundConstant j) ∧
  (∀ i j : Fin 80, j.val = i.val + 1 → i.val / 20 ≠ j.val / 20 → ∃ b c d, mix i.val b c d ≠ mix j.val b c d) ∧
  ∀ i : Fin 80, ∃ b c d, mix i.val b c d ≠ 0

/-- R103: the five values after a round, each from values before it. -/
def Obligations.RoundIsSynchronous : Prop :=
  ∀ (i : Fin 80) (a b c d e w : Word),
    roundOf i ⟨a, b, c, d, e⟩ w =
      ⟨a.rotateLeft 5 + mix i.val b c d + e + w + roundConstant i, a, b.rotateLeft 30, c, d⟩

/-- R104: the rounds 0, 1, ..., 79 from H, then the feed-forward sums, or the working variables unchanged; this hardware
takes FEED_FORWARD = 1. -/
def Obligations.CompressIsEightyRoundsInOrder : Prop :=
  Config.feedForward = true ∧
  ∀ (ff : Bool) (w : Vector Word 80) (h : Vector Word 5) (x : Nat → Work),
    x 0 = ⟨h[0], h[1], h[2], h[3], h[4]⟩ →
    (∀ i : Fin 80, x (i.val + 1) = roundOf i (x i.val) w[i]) →
    compress ff w h = if ff
      then #v[h[0] + (x 80).a, h[1] + (x 80).b, h[2] + (x 80).c, h[3] + (x 80).d, h[4] + (x 80).e]
      else #v[(x 80).a, (x 80).b, (x 80).c, (x 80).d, (x 80).e]

/-! ### The window (20_memory, 10_state) -/

/-- R51: what each word-aligned offset of the window is. -/
def Obligations.AddressMap : Prop :=
  ∀ off : Offset,
    (∀ j : Fin 80, off.toNat = 4 * j.val → accessed off 4 = some (.w j)) ∧
    (∀ j : Fin 5, off.toNat = 0x140 + 4 * j.val → accessed off 4 = some (.h j)) ∧
    (off.toNat = 0x160 → accessed off 4 = some .opa) ∧ (off.toNat = 0x164 → accessed off 4 = some .opb) ∧
    (off.toNat = 0x168 → accessed off 4 = some .opc) ∧ (off.toNat = 0x16C → accessed off 4 = some .opi) ∧
    (off.toNat = 0x170 → accessed off 4 = some .res) ∧ (off.toNat = 0x178 → accessed off 4 = some .cmd) ∧
    (off.toNat = 0x17C → accessed off 4 = some .status) ∧ (off.toNat = 0x180 → accessed off 4 = some .id) ∧
    ((0x154 ≤ off.toNat ∧ off.toNat ≤ 0x15C) ∨ off.toNat = 0x174 ∨ 0x184 ≤ off.toNat → accessed off 4 = none)

/-- R52: a read. -/
def Obligations.MemReadByTheMap : Prop :=
  ∀ (s : State) (off : Offset) (n : Nat),
    (badPlace off n → memRead off n s = { s with
      err := true, ecode := if s.err then s.ecode else 3, resp := some ⟨.busError, some 0⟩ }) ∧
    (∀ j : Fin 80, off.toNat = 4 * j.val → memRead off 4 s = { s with resp := some ⟨.ok, some s.w[j]⟩ }) ∧
    (∀ j : Fin 5, off.toNat = 0x140 + 4 * j.val → memRead off 4 s = { s with resp := some ⟨.ok, some s.h[j]⟩ }) ∧
    (off.toNat = 0x160 → memRead off 4 s = { s with resp := some ⟨.ok, some s.opa⟩ }) ∧
    (off.toNat = 0x164 → memRead off 4 s = { s with resp := some ⟨.ok, some s.opb⟩ }) ∧
    (off.toNat = 0x168 → memRead off 4 s = { s with resp := some ⟨.ok, some s.opc⟩ }) ∧
    (off.toNat = 0x16C → memRead off 4 s = { s with resp := some ⟨.ok, some s.opi⟩ }) ∧
    (off.toNat = 0x170 → memRead off 4 s = { s with resp := some ⟨.ok, some s.res⟩ }) ∧
    (off.toNat = 0x178 → memRead off 4 s = { s with resp := some ⟨.ok, some 0⟩ }) ∧
    (off.toNat = 0x17C → memRead off 4 s = { s with resp := some ⟨.ok, some
      ((s.ecode.setWidth 32 <<< 4) ||| ((BitVec.ofBool s.err).setWidth 32 <<< 2)
        ||| ((BitVec.ofBool s.done).setWidth 32 <<< 1) ||| (BitVec.ofBool s.busy).setWidth 32)⟩ }) ∧
    (off.toNat = 0x180 → memRead off 4 s = { s with resp := some ⟨.ok, some 0x53484131⟩ })

/-- R161: an access that is BAD_ACCESS, in either phase. -/
def Obligations.BadAccessChangesNothingElse : Prop :=
  ∀ (s : State) (off : Offset) (n : Nat) (v : Word),
    (badPlace off n → memRead off n s = { s with
      err := true, ecode := if s.err then s.ecode else 3, resp := some ⟨.busError, some 0⟩ }) ∧
    (badWrite off n → memWrite off n v s = .next { s with
      err := true, ecode := if s.err then s.ecode else 3, resp := some ⟨.busError, none⟩ })

/-- R162: a write to W, H, OPA, OPB, OPC, OPI or CMD while busy is dropped; reads and STATUS writes are no violations,
and the pending command completes as it would have. -/
def Obligations.BusyWriteIsDropped : Prop :=
  ∀ (s : State) (v : Word), s.busy = true →
    (∀ off : Offset, ¬ badWrite off 4 → closedWhileBusy off → memWrite off 4 v s = .next { s with
      err := true, ecode := if s.err then s.ecode else 2, resp := some ⟨.ok, none⟩ }) ∧
    (∀ off : Offset, ¬ badPlace off 4 → (memRead off 4 s).err = s.err ∧ (memRead off 4 s).ecode = s.ecode) ∧
    (∃ t, memWrite 0x17C 4 v s = .next t ∧ (t.err = true → s.err = true)) ∧
    (∀ (off : Offset) (ff : Bool) (t u : State), closedWhileBusy off → memWrite off 4 v s = .next t →
      coreComplete ff s = .next u → ∃ u', coreComplete ff t = .next u' ∧ u'.h = u.h ∧ u'.res = u.res)

/-- R53, R26: a data word written while idle is read back from its own register, every other word of the window reads as
before, and nothing else of the state changes. -/
def Obligations.IdleWriteIsReadBack : Prop :=
  ∀ (s : State) (r : Reg) (v : Word), s.busy = false → r.writeClass = .input →
    ∃ t, memWrite r.offset 4 v s = .next t ∧ t.readReg r = v ∧ (∀ r', r' ≠ r → t.readReg r' = s.readReg r') ∧
      t.phase = s.phase ∧ t.done = s.done ∧ t.err = s.err ∧ t.ecode = s.ecode ∧ t.work = s.work ∧
      t.roundCounter = s.roundCounter ∧ t.draws = s.draws ∧ t.schedule = s.schedule ∧ t.resp = some ⟨.ok, none⟩

/-- R58: reading twice is reading once, and so is writing twice to any register but CMD. -/
def Obligations.AccessesAreIdempotent : Prop :=
  (∀ (s : State) (off : Offset) (n : Nat), memRead off n (memRead off n s) = memRead off n s) ∧
  (∀ (s : State) (r : Reg), ∃ x, memRead r.offset 4 s = { s with resp := some ⟨.ok, some x⟩ }) ∧
  ∀ (s : State) (off : Offset) (n : Nat) (v : Word), off.toNat ≠ 0x178 →
    ∃ t, memWrite off n v s = .next t ∧ memWrite off n v t = .next t

/-- R30: the layout STATUS is read with, and the effect of a write to it. -/
def Obligations.StatusLayoutAndClear : Prop :=
  State.reset.statusWord = 0x00000000 ∧
  ∀ (s : State) (v : Word),
    s.statusWord.getLsbD 0 = s.busy ∧ s.statusWord.getLsbD 1 = s.done ∧ s.statusWord.getLsbD 2 = s.err ∧
    s.statusWord.getLsbD 3 = false ∧ s.statusWord.extractLsb' 4 4 = s.ecode ∧ s.statusWord.extractLsb' 8 24 = 0 ∧
    memWrite 0x17C 4 v s = .next { s with
      done := if v.getLsbD 1 then false else s.done, err := if v.getLsbD 2 then false else s.err,
      ecode := if v.getLsbD 2 then 0 else s.ecode, resp := some ⟨.ok, none⟩ }

/-- R33: ID reads its constant, and a write to it is BAD_ACCESS. -/
def Obligations.IdentificationRegister : Prop :=
  ∀ (s : State) (v : Word),
    memRead 0x180 4 s = { s with resp := some ⟨.ok, some 0x53484131⟩ } ∧
    memWrite 0x180 4 v s = .next { s with
      err := true, ecode := if s.err then s.ecode else 3, resp := some ⟨.busError, none⟩ }

/-- R50, R153: a host's access to SHA1C_BASE + offset arrives, behind what is on its way, as an access to that offset; an
access outside the 512-byte window does not reach the block. That a host access joins the end of the schedule is the
model's own (log 5). -/
def Obligations.HostAddressesReachTheWindow : Prop :=
  Config.base % 0x200 = 0 ∧
  ∀ (s : State) (addr n : Nat) (v : Word),
    (∀ off : Offset, addr = Config.base + off.toNat →
      State.hostRead Config.base addr n s = { s with schedule := s.schedule ++ [.read off n] } ∧
      State.hostWrite Config.base addr n v s = { s with schedule := s.schedule ++ [.write off n v] }) ∧
    (addr < Config.base ∨ Config.base + 0x200 ≤ addr →
      State.hostRead Config.base addr n s = s ∧ State.hostWrite Config.base addr n v s = s)

/-! ### Errors (60_exceptions) -/

/-- R165: recording an error. -/
def Obligations.RaiseKeepsTheFirstError : Prop :=
  ∀ (s : State) (e : ErrorKind),
    (s.err = false → raise e s = { s with err := true, ecode := e.code }) ∧ (s.err = true → raise e s = s)

/-- R167: of the errors that apply to one access, exactly the first in the order BAD_ACCESS, BUSY_VIOLATION, ILLEGAL_CMD
is raised, its code kept where no earlier error holds ECODE; where none applies, none is raised. -/
def Obligations.OneErrorPerAccessByPriority : Prop :=
  ∀ (s : State) (off : Offset) (n : Nat) (v : Word),
    (badPlace off n → (memRead off n s).err = true ∧ (memRead off n s).ecode = if s.err then s.ecode else 3) ∧
    (¬ badPlace off n → (memRead off n s).err = s.err ∧ (memRead off n s).ecode = s.ecode) ∧
    ∃ t, memWrite off n v s = .next t ∧
      (badWrite off n → t.err = true ∧ t.ecode = if s.err then s.ecode else 3) ∧
      (¬ badWrite off n → closedWhileBusy off → s.busy = true → t.err = true ∧ t.ecode = if s.err then s.ecode else 2) ∧
      (¬ badWrite off n → off.toNat = 0x178 → s.busy = false → reservedWord v →
        t.err = true ∧ t.ecode = if s.err then s.ecode else 1) ∧
      (¬ badWrite off n → ¬ (closedWhileBusy off ∧ s.busy = true) → ¬ (off.toNat = 0x178 ∧ reservedWord v) →
        t.err = true → s.err = true ∧ t.ecode = s.ecode)

/-- R166: no round and no completion step raises or clears an error, and the completion of an accepted command takes
place whatever its operands. -/
def Obligations.CoreStepsRaiseNothing : Prop :=
  ∀ (ff : Bool) (s t : State),
    (coreComplete ff s = .next t → t.err = s.err ∧ t.ecode = s.ecode) ∧
    (coreRound s = .next t → t.err = s.err ∧ t.ecode = s.ecode) ∧
    (s.roundCounter.toNat ≤ 80 → ∃ u, coreComplete ff s = .next u ∧ u.phase = .idle)

/-- R34, R171: ERR is set only with the code of an error that can be raised, keeps its code while it stays set, and is
cleared only by a STATUS write with bit 2 set or by reset, with ECODE. -/
def Obligations.ErrorIsStickyUntilCleared : Prop :=
  ∀ s t : State, step s = .next t →
    (s.err = false → t.err = true → t.ecode = 1 ∨ t.ecode = 2 ∨ t.ecode = 3) ∧
    (s.err = true → t.err = true → t.ecode = s.ecode) ∧
    (s.err = true → t.err = false → t.ecode = 0 ∧ ∃ rest,
      s.schedule = .reset :: rest ∨ ∃ v : Word, v.getLsbD 2 = true ∧ s.schedule = .write 0x17C 4 v :: rest)

/-! ### The commands -/

/-- R150: NOP. -/
def Obligations.NopChangesNothing : Prop :=
  ∀ s : State,
    (s.phase = .idle → exec .nop s = .next s) ∧
    (s.busy = true → exec .nop s = .next { s with err := true, ecode := if s.err then s.ecode else 2 })

/-- R105, R39, R40: COMPRESS while idle is accepted, and its completion writes compress(W, H) into H, whichever value
FEED_FORWARD has; everything else is kept. -/
def Obligations.CompressCompletesWithCompress : Prop :=
  ∀ (ff : Bool) (s : State), s.phase = .idle →
    ∃ t u, exec .compress s = .next t ∧
      t = { s with phase := .busy .compress, done := false, work := ⟨s.h[0], s.h[1], s.h[2], s.h[3], s.h[4]⟩,
                   roundCounter := 0 } ∧
      coreComplete ff t = .next u ∧
      u = { s with phase := .idle, done := true, h := compress ff s.w s.h, work := u.work,
                   roundCounter := u.roundCounter, draws := u.draws }

/-- R131, R39, R40: ROTL while idle is accepted, and its completion writes rotl32(OPA, OPB) into RES; everything else is
kept. -/
def Obligations.RotlCompletesWithRotation : Prop :=
  ∀ (ff : Bool) (s : State), s.phase = .idle →
    ∃ t, exec .rotl s = .next t ∧ t = { s with phase := .busy .rotl, done := false } ∧
      coreComplete ff t = .next { s with
        phase := .idle, done := true, res := s.opa.rotateLeft (s.opb.toNat % 32) }

/-- R141, R39, R40: MIX while idle is accepted, and its completion writes mix(sint32(OPI), OPA, OPB, OPC) into RES;
everything else is kept. -/
def Obligations.MixCompletesWithMix : Prop :=
  ∀ (ff : Bool) (s : State), s.phase = .idle →
    ∃ t, exec .mix s = .next t ∧ t = { s with phase := .busy .mix, done := false } ∧
      coreComplete ff t = .next { s with
        phase := .idle, done := true,
        res := mix (if s.opi.toNat < 2 ^ 31 then (s.opi.toNat : Int) else (s.opi.toNat : Int) - 2 ^ 32)
          s.opa s.opb s.opc }

/-- R162, R178: a command written while one is pending is turned away and only the error is recorded. -/
def Obligations.SecondCommandIsTurnedAway : Prop :=
  ∀ (i : Instr) (s : State), s.busy = true →
    exec i s = .next { s with err := true, ecode := if s.err then s.ecode else 2 }

/-- The frame of the command words (10_state R27, 40_compress R108): exec of any command leaves every word of the window
but STATUS as it was, never touches ERR or ECODE while idle, and loads the working registers for COMPRESS alone. -/
def Obligations.CommandFrame : Prop :=
  ∀ (i : Instr) (s t : State), exec i s = .next t →
    (∀ r : Reg, r ≠ .status → t.readReg r = s.readReg r) ∧
    (s.phase = .idle → t.err = s.err ∧ t.ecode = s.ecode) ∧
    (i ≠ .compress → t.work = s.work ∧ t.roundCounter = s.roundCounter) ∧
    t.draws = s.draws ∧ t.schedule = s.schedule ∧ t.resp = s.resp

/-- R36: a round of a pending COMPRESS uses I as its index and adds 1 to it; at 80 the rounds have ended. With no
COMPRESS pending a round event changes nothing, which is the model's own (log 3). -/
def Obligations.RoundUsesAndAdvancesTheCounter : Prop :=
  ∀ s : State,
    (s.phase = .busy .compress → ∀ i : Fin 80, s.roundCounter.toNat = i.val →
      ∃ t, coreRound s = .next t ∧ t.roundCounter.toNat = i.val + 1 ∧ t.work = roundOf i s.work s.w[i] ∧
        t = { s with work := t.work, roundCounter := t.roundCounter }) ∧
    (s.roundCounter.toNat = 80 → coreRound s = .next s) ∧
    (s.phase ≠ .busy .compress → coreRound s = .next s)

/-- The model's one fault (log 6): with a COMPRESS pending and I above 80, which 10_state R36 says never occurs. -/
def Obligations.CounterAboveEightyFaults : Prop :=
  ∀ (ff : Bool) (s : State), s.phase = .busy .compress → 80 < s.roundCounter.toNat →
    coreRound s = .fault .roundCounterAbove80 ∧ coreComplete ff s = .fault .roundCounterAbove80

/-! ### What a step may change (10_state) -/

/-- R31: the acceptance of a command other than NOP, and only that, sets BUSY; the completion and reset, and only they,
clear it; no other access changes it; while BUSY is 1 exactly one command is pending. That the core
takes its completion when nothing is scheduled is the model's own (log 8); a step that clears BUSY there is that
completion. -/
def Obligations.BusyFollowsAcceptanceAndCompletion : Prop :=
  ∀ s t : State, step s = .next t →
    (s.busy = false → (t.busy = true ↔
      ∃ v i rest, s.schedule = .write 0x178 4 v :: rest ∧ decode v = .ok i ∧ i ≠ .nop)) ∧
    (∀ rest, s.schedule = .complete :: rest ∨ s.schedule = .reset :: rest → t.busy = false) ∧
    (s.busy = true → t.busy = false → (s.schedule = [] ∧ coreComplete true s = .next t ∧ t.done = true) ∨
      ∃ rest, s.schedule = .complete :: rest ∨ s.schedule = .reset :: rest) ∧
    (s.busy = true ↔ ∃! op, s.phase = .busy op)

/-- R32: every completion, and nothing else, sets DONE; the acceptance of a command other than NOP, a STATUS write with
bit 1 set and reset, and nothing else, clear it. -/
def Obligations.DoneFollowsCompletionAndClear : Prop :=
  ∀ s t : State, step s = .next t →
    (s.busy = true → t.busy = false → (∀ rest, s.schedule ≠ .reset :: rest) → t.done = true) ∧
    (s.done = false → t.done = true → s.busy = true ∧ t.busy = false) ∧
    (s.busy = false → t.busy = true → t.done = false) ∧
    (∀ rest, (∃ v : Word, v.getLsbD 1 = true ∧ s.schedule = .write 0x17C 4 v :: rest) ∨ s.schedule = .reset :: rest →
      t.done = false) ∧
    (s.done = true → t.done = false → ∃ rest, s.schedule = .reset :: rest ∨
      (∃ v : Word, v.getLsbD 1 = true ∧ s.schedule = .write 0x17C 4 v :: rest) ∨
      ∃ v i, s.schedule = .write 0x178 4 v :: rest ∧ decode v = .ok i ∧ i ≠ .nop ∧ s.busy = false)

/-- R21, R23, R24: W and the operand registers change only by a host write to that very register while idle, or by
reset; the core never writes them. -/
def Obligations.InputsChangeOnlyByHost : Prop :=
  ∀ (s t : State) (r : Reg), step s = .next t → (∀ j, r ≠ .h j) → r.writeClass = .input →
    t.readReg r ≠ s.readReg r → ∃ rest, s.schedule = .reset :: rest ∨
      s.busy = false ∧ s.schedule = .write r.offset 4 (t.readReg r) :: rest

/-- R22, R25: H changes only by the completion of a COMPRESS, a host write while idle or reset; RES only by the
completion of a ROTL or MIX, or reset. -/
def Obligations.ResultsChangeOnlyByTheirCommands : Prop :=
  ∀ s t : State, step s = .next t → (∀ rest, s.schedule ≠ .reset :: rest) →
    (∀ j : Fin 5, t.h[j] ≠ s.h[j] → (s.phase = .busy .compress ∧ t.phase = .idle) ∨
      s.busy = false ∧ ∃ rest, s.schedule = .write (Reg.h j).offset 4 t.h[j] :: rest) ∧
    (t.res ≠ s.res → (s.phase = .busy .rotl ∨ s.phase = .busy .mix) ∧ t.phase = .idle)

/-! ### Reset (10_state R41, 70_reset) -/

/-- R192 and the values R41 states: after reset the block is idle, STATUS reads 0, ID its constant and CMD 0, and the
next command, whichever it is, is accepted at once. -/
def Obligations.ResetStateIsReady : Prop :=
  State.reset.phase = .idle ∧ State.reset.statusWord = 0x00000000 ∧ State.reset.readReg .id = 0x53484131 ∧
    State.reset.readReg .cmd = 0 ∧ (∀ k : Fin 4, kTable[k] = #v[0x5A827999, 0x6ED9EBA1, 0x8F1BBCDC, 0xCA62C1D6][k]) ∧
    ∀ p ∈ [(Instr.compress, PendOp.compress), (Instr.rotl, PendOp.rotl), (Instr.mix, PendOp.mix)],
      ∃ t, step (State.reset.withFetchWord 32 (encode p.1).toNat) = .next t ∧ t.phase = .busy p.2

/-- R190, R191: reset in any state leaves an idle block with STATUS 0, and a pending command's result is not written:
nothing of the old registers is left. That each unspecified register then holds a free word the run has not used before
is the model's choice (log 1), and so is that the rest of the schedule stays (log 3). -/
def Obligations.ResetAbandonsTheCommand : Prop :=
  ∀ (s : State) (rest : List Event), s.schedule = .reset :: rest →
    ∃ t, step s = .next t ∧ t.phase = .idle ∧ t.statusWord = 0 ∧ t.schedule = rest ∧ t.draws = s.draws + 96 ∧
      (∀ j : Fin 80, t.w[j] = Config.freeWord (s.draws + j.val)) ∧
      (∀ j : Fin 5, t.h[j] = Config.freeWord (s.draws + 80 + j.val)) ∧
      t.opa = Config.freeWord (s.draws + 85) ∧ t.opb = Config.freeWord (s.draws + 86) ∧
      t.opc = Config.freeWord (s.draws + 87) ∧ t.opi = Config.freeWord (s.draws + 88) ∧
      t.res = Config.freeWord (s.draws + 89)

/-! ### The invariant, and whole runs -/

/-- Every state after a reset meets the invariant. -/
def Obligations.ResetMeetsInvariant : Prop := ∀ n : Nat, Inv (State.afterReset n)

/-- Every step keeps the invariant: DONE is 0 while a command is pending, ECODE is the code of an error that is raised
exactly when ERR is set, I never exceeds 80, and during a COMPRESS the working registers hold the rounds before I. -/
def Obligations.StepKeepsInvariant : Prop := ∀ s t : State, Inv s → step s = .next t → Inv t

/-- A state that meets the invariant always has a next state: the machine never stops. -/
def Obligations.InvariantStatesHaveANextState : Prop := ∀ s : State, Inv s → ∃ t, step s = .next t

/-- R40 from R35 and R36: however many rounds have been taken, the completion of a COMPRESS writes compress(W, H); after
the last round that is the write-back of the working registers. -/
def Obligations.RoundByRoundIsCompress : Prop :=
  ∀ (ff : Bool) (s : State), Inv s → s.phase = .busy .compress →
    (∃ t, coreComplete ff s = .next t ∧ t.h = compress ff s.w s.h ∧ t.phase = .idle ∧ t.done = true) ∧
    (s.roundCounter.toNat = 80 → compress ff s.w s.h = writeBack ff s.h s.work)

/-- Left to itself, a pending COMPRESS takes its remaining rounds, H keeping its value (20_memory R62), and completes
with compress(W, H). That the core goes on when nothing is scheduled is the model's reading of R201 (log 8). -/
def Obligations.CompressLeftAloneCompletes : Prop :=
  ∀ s : State, Inv s → s.phase = .busy .compress → s.schedule = [] →
    (∀ k, k < 81 - s.roundCounter.toNat → ∃ u : State, core.run k s = .next u ∧ u.phase = .busy .compress ∧ u.h = s.h) ∧
    ∃ t : State, core.run (81 - s.roundCounter.toNat) s = .next t ∧ t.phase = .idle ∧ t.done = true ∧
      t.h = compress true s.w s.h

/-- Left to itself, a pending ROTL or MIX completes in one step (log 8). -/
def Obligations.RotlAndMixLeftAloneComplete : Prop :=
  ∀ s : State, s.schedule = [] →
    (s.phase = .busy .rotl → step s = .next { s with phase := .idle, done := true, res := rotl32 s.opa s.opb }) ∧
    (s.phase = .busy .mix → step s = .next { s with
      phase := .idle, done := true, res := mix s.opi.toInt s.opa s.opb s.opc })

/-- R39, R107, R111: from the CMD write of COMPRESS to its completion, whatever accesses and rounds come between, with no
reset, the result is compress of the W and H at acceptance, and nothing else of the data registers changes. -/
def Obligations.CompressResultIsFixedAtAcceptance : Prop :=
  ∀ (s : State) (es rest : List Event), s.phase = .idle → (∀ e ∈ es, e ≠ .reset ∧ e ≠ .complete) →
    s.schedule = .write 0x178 4 0x00000001 :: es ++ .complete :: rest →
      ∃ t : State, core.run (es.length + 2) s = .next t ∧ t.h = compress true s.w s.h ∧ t.phase = .idle ∧ t.done = true ∧
        t.schedule = rest ∧ t.w = s.w ∧ t.opa = s.opa ∧ t.opb = s.opb ∧ t.opc = s.opc ∧ t.opi = s.opi ∧ t.res = s.res

/-- R39: the same for ROTL and MIX, whose result is a function of the operand registers at acceptance. -/
def Obligations.HelperResultIsFixedAtAcceptance : Prop :=
  ∀ (s : State) (es rest : List Event) (v r : Word), s.phase = .idle → (∀ e ∈ es, e ≠ .reset ∧ e ≠ .complete) →
    (v = 0x00000002 ∧ r = rotl32 s.opa s.opb ∨ v = 0x00000003 ∧ r = mix s.opi.toInt s.opa s.opb s.opc) →
    s.schedule = .write 0x178 4 v :: es ++ .complete :: rest →
      ∃ t : State, core.run (es.length + 2) s = .next t ∧ t.res = r ∧ t.phase = .idle ∧ t.done = true ∧
        t.schedule = rest ∧ t.w = s.w ∧ t.h = s.h ∧ t.opa = s.opa ∧ t.opb = s.opb ∧ t.opc = s.opc ∧ t.opi = s.opi

/-- R35, R36, R180: outside a COMPRESS the working registers and I cannot be observed. Two states that differ in them
alone step to two such states, so every response and every result is the same for both. -/
def Obligations.WorkingRegistersAreUnobservable : Prop :=
  ∀ s t : State, sameVisible s t → ∀ s', step s = .next s' → ∃ t', step t = .next t' ∧ sameVisible s' t'

/-! ### Host programs -/

/-- R79, R197: a read of STATUS ends `WAIT` exactly when no command is pending, passes R79's `CHECK` exactly when ERR is
0, and R197's exactly when also DONE is 1. That these are two tests is the model's choice (log 17). -/
def Obligations.PollingReadsTheFlags : Prop :=
  ∀ (s : State) (rest : List Event), s.schedule = lineRD .status :: rest →
    ∃ t, step s = .next t ∧ t.statusWord = s.statusWord ∧
      (waitEnds t = true ↔ s.phase = .idle) ∧ (checkPasses t = true ↔ s.err = false) ∧
      (checkCompleted t = true ↔ s.err = false ∧ s.done = true)

/-- R202 over whole runs. Where the marked events of a run are a host's program, in order among those of other hosts, the
core and reset, the program has ended after the run exactly when the host has, after each command it wrote, seen
BUSY = 0 in a STATUS read of its own; so a program that writes no command ends with its last access, in either phase and
whatever is still scheduled. A host that has yet to see BUSY = 0 ends its program only with a read of STATUS; a read
leaves the end state as it was; and ROTL32 ends, with the rotation in RES and read from it, when its WAIT polls until the
completion. Which steps are the host's own, and what counts as a command written, are the model's (log 18). -/
def Obligations.HostProgramEndsOnceIdleIsSeen : Prop :=
  (∀ (s : State) (marks : List Bool) (evs rest : List Event) (u : Bool), Inv s → marks.length = evs.length →
    s.schedule = evs ++ rest →
    ∃ p t, hostRun marks ⟨((marks.zip evs).filter Prod.fst).map Prod.snd, u⟩ s = some (p, t) ∧ p.left = [] ∧
      t.schedule = rest ∧
      (programEnded p = true ↔ (u = true → ∃ k, ownReadSeesIdle s marks evs k) ∧
        ∀ (i : Nat) (e : Event), marks[i]? = some true → evs[i]? = some e → isCommandWrite e →
          ∃ k, i < k ∧ ownReadSeesIdle s marks evs k) ∧
      (u = false → (∀ (i : Nat) (e : Event), marks[i]? = some true → evs[i]? = some e → ¬ isCommandWrite e) →
        programEnded p = true)) ∧
  (∀ (marks : List Bool) (p p' : HostProgress) (s t : State), hostRun marks p s = some (p', t) →
    p.unseen = true → programEnded p' = true → lineRD .status ∈ p.left) ∧
  (∀ (s : State) (r : Reg) (rest : List Event), s.schedule = lineRD r :: rest →
    ∃ p t, hostRun [true] (.start [lineRD r]) s = some (p, t) ∧ programEnded p = true ∧ t.endState = s.endState) ∧
  ∀ (s : State) (v n : Word) (k : Nat) (rest : List Event), Inv s → s.phase = .idle → s.err = false →
    s.schedule = [lineWR .opa v, lineWR .opb n, lineWR .cmd (encode .rotl)] ++ pseudoWAIT k ++
      .complete :: (pseudoWAIT 1 ++ pseudoCHECK ++ [lineRD .res] ++ rest) →
    ∃ p t, hostRun (List.replicate (3 + k) true ++ false :: List.replicate 3 true)
        (.start (pseudoROTL32 v n (k + 1))) s = some (p, t) ∧
      programEnded p = true ∧ t.resp = some ⟨.ok, some (rotl32 v n)⟩ ∧ t.schedule = rest ∧
      t.endState = { s.endState with status := 0x00000002, opa := v, opb := n, res := rotl32 v n }

/-- R202, one step at a time: the host's own access leaves one line fewer; the write of a command leaves the host with
BUSY = 0 still to see, its own read of STATUS with BUSY = 0 ends that, and no other access changes it; every other step
is nothing to the host. The program has ended when no line is left and no BUSY = 0 is still to be seen. Which steps are
the host's own, and what counts as a command written, are the model's (log 18). -/
def Obligations.HostProgressOverOneStep : Prop :=
  (∀ (l : List Event) (u : Bool), programEnded ⟨l, u⟩ = true ↔ l = [] ∧ u = false) ∧
  (∀ (own : Bool) (s t : State) (p : HostProgress), s.schedule = [] → p.after own s t = p) ∧
  ∀ (s t : State) (e : Event) (rest : List Event), s.schedule = e :: rest → step s = .next t →
    (∀ p : HostProgress, p.after false s t = p) ∧
    (∀ (own : Bool) (p : HostProgress), p.left.head? ≠ some e → p.after own s t = p) ∧
    ∀ (l : List Event) (u : Bool),
      (isCommandWrite e → HostProgress.after true s t ⟨e :: l, u⟩ = ⟨l, true⟩) ∧
      (e = .read 0x17C 4 → s.busy = false → HostProgress.after true s t ⟨e :: l, u⟩ = ⟨l, false⟩) ∧
      (¬ isCommandWrite e → ¬ (e = .read 0x17C 4 ∧ s.busy = false) →
        HostProgress.after true s t ⟨e :: l, u⟩ = ⟨l, u⟩)
end

