-- ==== Sys2Proof/Laws/State.lean ====
section
/-! SUPPORT. One lemma per field per update of the state, so that no proof unfolds a record update. -/

namespace Sys2Proof.Machine

/-! `respond` -/

@[simp] theorem respond_w (st : BusStatus) (d : Option Word) (s : State) : (respond st d s).w = s.w := rfl
@[simp] theorem respond_h (st : BusStatus) (d : Option Word) (s : State) : (respond st d s).h = s.h := rfl
@[simp] theorem respond_opa (st : BusStatus) (d : Option Word) (s : State) : (respond st d s).opa = s.opa := rfl
@[simp] theorem respond_opb (st : BusStatus) (d : Option Word) (s : State) : (respond st d s).opb = s.opb := rfl
@[simp] theorem respond_opc (st : BusStatus) (d : Option Word) (s : State) : (respond st d s).opc = s.opc := rfl
@[simp] theorem respond_opi (st : BusStatus) (d : Option Word) (s : State) : (respond st d s).opi = s.opi := rfl
@[simp] theorem respond_res (st : BusStatus) (d : Option Word) (s : State) : (respond st d s).res = s.res := rfl
@[simp] theorem respond_done (st : BusStatus) (d : Option Word) (s : State) : (respond st d s).done = s.done := rfl
@[simp] theorem respond_err (st : BusStatus) (d : Option Word) (s : State) : (respond st d s).err = s.err := rfl
@[simp] theorem respond_ecode (st : BusStatus) (d : Option Word) (s : State) : (respond st d s).ecode = s.ecode := rfl
@[simp] theorem respond_phase (st : BusStatus) (d : Option Word) (s : State) : (respond st d s).phase = s.phase := rfl
@[simp] theorem respond_work (st : BusStatus) (d : Option Word) (s : State) : (respond st d s).work = s.work := rfl
@[simp] theorem respond_roundCounter (st : BusStatus) (d : Option Word) (s : State) : (respond st d s).roundCounter = s.roundCounter := rfl
@[simp] theorem respond_draws (st : BusStatus) (d : Option Word) (s : State) : (respond st d s).draws = s.draws := rfl
@[simp] theorem respond_schedule (st : BusStatus) (d : Option Word) (s : State) : (respond st d s).schedule = s.schedule := rfl
@[simp] theorem respond_resp (st : BusStatus) (d : Option Word) (s : State) : (respond st d s).resp = some ⟨st, d⟩ := rfl

/-! `withSchedule` -/

@[simp] theorem withSchedule_w (es : List Event) (s : State) : (s.withSchedule es).w = s.w := rfl
@[simp] theorem withSchedule_h (es : List Event) (s : State) : (s.withSchedule es).h = s.h := rfl
@[simp] theorem withSchedule_opa (es : List Event) (s : State) : (s.withSchedule es).opa = s.opa := rfl
@[simp] theorem withSchedule_opb (es : List Event) (s : State) : (s.withSchedule es).opb = s.opb := rfl
@[simp] theorem withSchedule_opc (es : List Event) (s : State) : (s.withSchedule es).opc = s.opc := rfl
@[simp] theorem withSchedule_opi (es : List Event) (s : State) : (s.withSchedule es).opi = s.opi := rfl
@[simp] theorem withSchedule_res (es : List Event) (s : State) : (s.withSchedule es).res = s.res := rfl
@[simp] theorem withSchedule_done (es : List Event) (s : State) : (s.withSchedule es).done = s.done := rfl
@[simp] theorem withSchedule_err (es : List Event) (s : State) : (s.withSchedule es).err = s.err := rfl
@[simp] theorem withSchedule_ecode (es : List Event) (s : State) : (s.withSchedule es).ecode = s.ecode := rfl
@[simp] theorem withSchedule_phase (es : List Event) (s : State) : (s.withSchedule es).phase = s.phase := rfl
@[simp] theorem withSchedule_work (es : List Event) (s : State) : (s.withSchedule es).work = s.work := rfl
@[simp] theorem withSchedule_roundCounter (es : List Event) (s : State) : (s.withSchedule es).roundCounter = s.roundCounter := rfl
@[simp] theorem withSchedule_draws (es : List Event) (s : State) : (s.withSchedule es).draws = s.draws := rfl
@[simp] theorem withSchedule_schedule (es : List Event) (s : State) : (s.withSchedule es).schedule = es := rfl
@[simp] theorem withSchedule_resp (es : List Event) (s : State) : (s.withSchedule es).resp = s.resp := rfl

/-! `accept` -/

@[simp] theorem accept_w (op : PendOp) (s : State) : (accept op s).w = s.w := rfl
@[simp] theorem accept_h (op : PendOp) (s : State) : (accept op s).h = s.h := rfl
@[simp] theorem accept_opa (op : PendOp) (s : State) : (accept op s).opa = s.opa := rfl
@[simp] theorem accept_opb (op : PendOp) (s : State) : (accept op s).opb = s.opb := rfl
@[simp] theorem accept_opc (op : PendOp) (s : State) : (accept op s).opc = s.opc := rfl
@[simp] theorem accept_opi (op : PendOp) (s : State) : (accept op s).opi = s.opi := rfl
@[simp] theorem accept_res (op : PendOp) (s : State) : (accept op s).res = s.res := rfl
@[simp] theorem accept_done (op : PendOp) (s : State) : (accept op s).done = false := rfl
@[simp] theorem accept_err (op : PendOp) (s : State) : (accept op s).err = s.err := rfl
@[simp] theorem accept_ecode (op : PendOp) (s : State) : (accept op s).ecode = s.ecode := rfl
@[simp] theorem accept_phase (op : PendOp) (s : State) : (accept op s).phase = .busy op := rfl
@[simp] theorem accept_work (op : PendOp) (s : State) : (accept op s).work = s.work := rfl
@[simp] theorem accept_roundCounter (op : PendOp) (s : State) : (accept op s).roundCounter = s.roundCounter := rfl
@[simp] theorem accept_draws (op : PendOp) (s : State) : (accept op s).draws = s.draws := rfl
@[simp] theorem accept_schedule (op : PendOp) (s : State) : (accept op s).schedule = s.schedule := rfl
@[simp] theorem accept_resp (op : PendOp) (s : State) : (accept op s).resp = s.resp := rfl

/-! `finish` -/

@[simp] theorem finish_w (s : State) : (finish s).w = s.w := rfl
@[simp] theorem finish_h (s : State) : (finish s).h = s.h := rfl
@[simp] theorem finish_opa (s : State) : (finish s).opa = s.opa := rfl
@[simp] theorem finish_opb (s : State) : (finish s).opb = s.opb := rfl
@[simp] theorem finish_opc (s : State) : (finish s).opc = s.opc := rfl
@[simp] theorem finish_opi (s : State) : (finish s).opi = s.opi := rfl
@[simp] theorem finish_res (s : State) : (finish s).res = s.res := rfl
@[simp] theorem finish_done (s : State) : (finish s).done = true := rfl
@[simp] theorem finish_err (s : State) : (finish s).err = s.err := rfl
@[simp] theorem finish_ecode (s : State) : (finish s).ecode = s.ecode := rfl
@[simp] theorem finish_phase (s : State) : (finish s).phase = .idle := rfl
@[simp] theorem finish_work (s : State) : (finish s).work = s.work := rfl
@[simp] theorem finish_roundCounter (s : State) : (finish s).roundCounter = s.roundCounter := rfl
@[simp] theorem finish_draws (s : State) : (finish s).draws = s.draws := rfl
@[simp] theorem finish_schedule (s : State) : (finish s).schedule = s.schedule := rfl
@[simp] theorem finish_resp (s : State) : (finish s).resp = s.resp := rfl

/-! `finishRes` -/

@[simp] theorem finishRes_w (v : Word) (s : State) : (finishRes v s).w = s.w := rfl
@[simp] theorem finishRes_h (v : Word) (s : State) : (finishRes v s).h = s.h := rfl
@[simp] theorem finishRes_opa (v : Word) (s : State) : (finishRes v s).opa = s.opa := rfl
@[simp] theorem finishRes_opb (v : Word) (s : State) : (finishRes v s).opb = s.opb := rfl
@[simp] theorem finishRes_opc (v : Word) (s : State) : (finishRes v s).opc = s.opc := rfl
@[simp] theorem finishRes_opi (v : Word) (s : State) : (finishRes v s).opi = s.opi := rfl
@[simp] theorem finishRes_res (v : Word) (s : State) : (finishRes v s).res = v := rfl
@[simp] theorem finishRes_done (v : Word) (s : State) : (finishRes v s).done = true := rfl
@[simp] theorem finishRes_err (v : Word) (s : State) : (finishRes v s).err = s.err := rfl
@[simp] theorem finishRes_ecode (v : Word) (s : State) : (finishRes v s).ecode = s.ecode := rfl
@[simp] theorem finishRes_phase (v : Word) (s : State) : (finishRes v s).phase = .idle := rfl
@[simp] theorem finishRes_work (v : Word) (s : State) : (finishRes v s).work = s.work := rfl
@[simp] theorem finishRes_roundCounter (v : Word) (s : State) : (finishRes v s).roundCounter = s.roundCounter := rfl
@[simp] theorem finishRes_draws (v : Word) (s : State) : (finishRes v s).draws = s.draws := rfl
@[simp] theorem finishRes_schedule (v : Word) (s : State) : (finishRes v s).schedule = s.schedule := rfl
@[simp] theorem finishRes_resp (v : Word) (s : State) : (finishRes v s).resp = s.resp := rfl

/-! `finishState` -/

@[simp] theorem finishState_w (v : Vector Word 5) (s : State) : (finishState v s).w = s.w := rfl
@[simp] theorem finishState_h (v : Vector Word 5) (s : State) : (finishState v s).h = v := rfl
@[simp] theorem finishState_opa (v : Vector Word 5) (s : State) : (finishState v s).opa = s.opa := rfl
@[simp] theorem finishState_opb (v : Vector Word 5) (s : State) : (finishState v s).opb = s.opb := rfl
@[simp] theorem finishState_opc (v : Vector Word 5) (s : State) : (finishState v s).opc = s.opc := rfl
@[simp] theorem finishState_opi (v : Vector Word 5) (s : State) : (finishState v s).opi = s.opi := rfl
@[simp] theorem finishState_res (v : Vector Word 5) (s : State) : (finishState v s).res = s.res := rfl
@[simp] theorem finishState_done (v : Vector Word 5) (s : State) : (finishState v s).done = true := rfl
@[simp] theorem finishState_err (v : Vector Word 5) (s : State) : (finishState v s).err = s.err := rfl
@[simp] theorem finishState_ecode (v : Vector Word 5) (s : State) : (finishState v s).ecode = s.ecode := rfl
@[simp] theorem finishState_phase (v : Vector Word 5) (s : State) : (finishState v s).phase = .idle := rfl
@[simp] theorem finishState_work (v : Vector Word 5) (s : State) : (finishState v s).work = s.work := rfl
@[simp] theorem finishState_roundCounter (v : Vector Word 5) (s : State) : (finishState v s).roundCounter = s.roundCounter := rfl
@[simp] theorem finishState_draws (v : Vector Word 5) (s : State) : (finishState v s).draws = s.draws := rfl
@[simp] theorem finishState_schedule (v : Vector Word 5) (s : State) : (finishState v s).schedule = s.schedule := rfl
@[simp] theorem finishState_resp (v : Vector Word 5) (s : State) : (finishState v s).resp = s.resp := rfl

/-! `advanceRound` -/

@[simp] theorem advanceRound_w (i : Fin 80) (s : State) : (advanceRound i s).w = s.w := rfl
@[simp] theorem advanceRound_h (i : Fin 80) (s : State) : (advanceRound i s).h = s.h := rfl
@[simp] theorem advanceRound_opa (i : Fin 80) (s : State) : (advanceRound i s).opa = s.opa := rfl
@[simp] theorem advanceRound_opb (i : Fin 80) (s : State) : (advanceRound i s).opb = s.opb := rfl
@[simp] theorem advanceRound_opc (i : Fin 80) (s : State) : (advanceRound i s).opc = s.opc := rfl
@[simp] theorem advanceRound_opi (i : Fin 80) (s : State) : (advanceRound i s).opi = s.opi := rfl
@[simp] theorem advanceRound_res (i : Fin 80) (s : State) : (advanceRound i s).res = s.res := rfl
@[simp] theorem advanceRound_done (i : Fin 80) (s : State) : (advanceRound i s).done = s.done := rfl
@[simp] theorem advanceRound_err (i : Fin 80) (s : State) : (advanceRound i s).err = s.err := rfl
@[simp] theorem advanceRound_ecode (i : Fin 80) (s : State) : (advanceRound i s).ecode = s.ecode := rfl
@[simp] theorem advanceRound_phase (i : Fin 80) (s : State) : (advanceRound i s).phase = s.phase := rfl
@[simp] theorem advanceRound_work (i : Fin 80) (s : State) : (advanceRound i s).work = roundOf i s.work s.w[i] := rfl
@[simp] theorem advanceRound_roundCounter (i : Fin 80) (s : State) : (advanceRound i s).roundCounter = s.roundCounter + 1 := rfl
@[simp] theorem advanceRound_draws (i : Fin 80) (s : State) : (advanceRound i s).draws = s.draws := rfl
@[simp] theorem advanceRound_schedule (i : Fin 80) (s : State) : (advanceRound i s).schedule = s.schedule := rfl
@[simp] theorem advanceRound_resp (i : Fin 80) (s : State) : (advanceRound i s).resp = s.resp := rfl

/-! `loadWork` -/

@[simp] theorem loadWork_w (s : State) : (loadWork s).w = s.w := rfl
@[simp] theorem loadWork_h (s : State) : (loadWork s).h = s.h := rfl
@[simp] theorem loadWork_opa (s : State) : (loadWork s).opa = s.opa := rfl
@[simp] theorem loadWork_opb (s : State) : (loadWork s).opb = s.opb := rfl
@[simp] theorem loadWork_opc (s : State) : (loadWork s).opc = s.opc := rfl
@[simp] theorem loadWork_opi (s : State) : (loadWork s).opi = s.opi := rfl
@[simp] theorem loadWork_res (s : State) : (loadWork s).res = s.res := rfl
@[simp] theorem loadWork_done (s : State) : (loadWork s).done = s.done := rfl
@[simp] theorem loadWork_err (s : State) : (loadWork s).err = s.err := rfl
@[simp] theorem loadWork_ecode (s : State) : (loadWork s).ecode = s.ecode := rfl
@[simp] theorem loadWork_phase (s : State) : (loadWork s).phase = s.phase := rfl
@[simp] theorem loadWork_work (s : State) : (loadWork s).work = loadState s.h := rfl
@[simp] theorem loadWork_roundCounter (s : State) : (loadWork s).roundCounter = 0 := rfl
@[simp] theorem loadWork_draws (s : State) : (loadWork s).draws = s.draws := rfl
@[simp] theorem loadWork_schedule (s : State) : (loadWork s).schedule = s.schedule := rfl
@[simp] theorem loadWork_resp (s : State) : (loadWork s).resp = s.resp := rfl

/-! `releaseWork` -/

@[simp] theorem releaseWork_w (s : State) : (releaseWork s).w = s.w := rfl
@[simp] theorem releaseWork_h (s : State) : (releaseWork s).h = s.h := rfl
@[simp] theorem releaseWork_opa (s : State) : (releaseWork s).opa = s.opa := rfl
@[simp] theorem releaseWork_opb (s : State) : (releaseWork s).opb = s.opb := rfl
@[simp] theorem releaseWork_opc (s : State) : (releaseWork s).opc = s.opc := rfl
@[simp] theorem releaseWork_opi (s : State) : (releaseWork s).opi = s.opi := rfl
@[simp] theorem releaseWork_res (s : State) : (releaseWork s).res = s.res := rfl
@[simp] theorem releaseWork_done (s : State) : (releaseWork s).done = s.done := rfl
@[simp] theorem releaseWork_err (s : State) : (releaseWork s).err = s.err := rfl
@[simp] theorem releaseWork_ecode (s : State) : (releaseWork s).ecode = s.ecode := rfl
@[simp] theorem releaseWork_phase (s : State) : (releaseWork s).phase = s.phase := rfl
@[simp] theorem releaseWork_work (s : State) : (releaseWork s).work = drawWork s.draws := rfl
@[simp] theorem releaseWork_roundCounter (s : State) : (releaseWork s).roundCounter = drawCounter (Config.freeWord (s.draws + 5)) := rfl
@[simp] theorem releaseWork_draws (s : State) : (releaseWork s).draws = s.draws + 6 := rfl
@[simp] theorem releaseWork_schedule (s : State) : (releaseWork s).schedule = s.schedule := rfl
@[simp] theorem releaseWork_resp (s : State) : (releaseWork s).resp = s.resp := rfl

/-! `raise` -/

@[simp] theorem raise_w (e : ErrorKind) (s : State) : (raise e s).w = s.w := by
  unfold raise; split <;> rfl
@[simp] theorem raise_h (e : ErrorKind) (s : State) : (raise e s).h = s.h := by
  unfold raise; split <;> rfl
@[simp] theorem raise_opa (e : ErrorKind) (s : State) : (raise e s).opa = s.opa := by
  unfold raise; split <;> rfl
@[simp] theorem raise_opb (e : ErrorKind) (s : State) : (raise e s).opb = s.opb := by
  unfold raise; split <;> rfl
@[simp] theorem raise_opc (e : ErrorKind) (s : State) : (raise e s).opc = s.opc := by
  unfold raise; split <;> rfl
@[simp] theorem raise_opi (e : ErrorKind) (s : State) : (raise e s).opi = s.opi := by
  unfold raise; split <;> rfl
@[simp] theorem raise_res (e : ErrorKind) (s : State) : (raise e s).res = s.res := by
  unfold raise; split <;> rfl
@[simp] theorem raise_done (e : ErrorKind) (s : State) : (raise e s).done = s.done := by
  unfold raise; split <;> rfl
@[simp] theorem raise_phase (e : ErrorKind) (s : State) : (raise e s).phase = s.phase := by
  unfold raise; split <;> rfl
@[simp] theorem raise_work (e : ErrorKind) (s : State) : (raise e s).work = s.work := by
  unfold raise; split <;> rfl
@[simp] theorem raise_roundCounter (e : ErrorKind) (s : State) : (raise e s).roundCounter = s.roundCounter := by
  unfold raise; split <;> rfl
@[simp] theorem raise_draws (e : ErrorKind) (s : State) : (raise e s).draws = s.draws := by
  unfold raise; split <;> rfl
@[simp] theorem raise_schedule (e : ErrorKind) (s : State) : (raise e s).schedule = s.schedule := by
  unfold raise; split <;> rfl
@[simp] theorem raise_resp (e : ErrorKind) (s : State) : (raise e s).resp = s.resp := by
  unfold raise; split <;> rfl

/-! `clearDone` -/

@[simp] theorem clearDone_w (v : Word) (s : State) : (s.clearDone v).w = s.w := by
  unfold State.clearDone; split <;> rfl
@[simp] theorem clearDone_h (v : Word) (s : State) : (s.clearDone v).h = s.h := by
  unfold State.clearDone; split <;> rfl
@[simp] theorem clearDone_opa (v : Word) (s : State) : (s.clearDone v).opa = s.opa := by
  unfold State.clearDone; split <;> rfl
@[simp] theorem clearDone_opb (v : Word) (s : State) : (s.clearDone v).opb = s.opb := by
  unfold State.clearDone; split <;> rfl
@[simp] theorem clearDone_opc (v : Word) (s : State) : (s.clearDone v).opc = s.opc := by
  unfold State.clearDone; split <;> rfl
@[simp] theorem clearDone_opi (v : Word) (s : State) : (s.clearDone v).opi = s.opi := by
  unfold State.clearDone; split <;> rfl
@[simp] theorem clearDone_res (v : Word) (s : State) : (s.clearDone v).res = s.res := by
  unfold State.clearDone; split <;> rfl
@[simp] theorem clearDone_err (v : Word) (s : State) : (s.clearDone v).err = s.err := by
  unfold State.clearDone; split <;> rfl
@[simp] theorem clearDone_ecode (v : Word) (s : State) : (s.clearDone v).ecode = s.ecode := by
  unfold State.clearDone; split <;> rfl
@[simp] theorem clearDone_phase (v : Word) (s : State) : (s.clearDone v).phase = s.phase := by
  unfold State.clearDone; split <;> rfl
@[simp] theorem clearDone_work (v : Word) (s : State) : (s.clearDone v).work = s.work := by
  unfold State.clearDone; split <;> rfl
@[simp] theorem clearDone_roundCounter (v : Word) (s : State) : (s.clearDone v).roundCounter = s.roundCounter := by
  unfold State.clearDone; split <;> rfl
@[simp] theorem clearDone_draws (v : Word) (s : State) : (s.clearDone v).draws = s.draws := by
  unfold State.clearDone; split <;> rfl
@[simp] theorem clearDone_schedule (v : Word) (s : State) : (s.clearDone v).schedule = s.schedule := by
  unfold State.clearDone; split <;> rfl
@[simp] theorem clearDone_resp (v : Word) (s : State) : (s.clearDone v).resp = s.resp := by
  unfold State.clearDone; split <;> rfl

/-! `clearError` -/

@[simp] theorem clearError_w (v : Word) (s : State) : (clearError v s).w = s.w := by
  unfold clearError; split <;> rfl
@[simp] theorem clearError_h (v : Word) (s : State) : (clearError v s).h = s.h := by
  unfold clearError; split <;> rfl
@[simp] theorem clearError_opa (v : Word) (s : State) : (clearError v s).opa = s.opa := by
  unfold clearError; split <;> rfl
@[simp] theorem clearError_opb (v : Word) (s : State) : (clearError v s).opb = s.opb := by
  unfold clearError; split <;> rfl
@[simp] theorem clearError_opc (v : Word) (s : State) : (clearError v s).opc = s.opc := by
  unfold clearError; split <;> rfl
@[simp] theorem clearError_opi (v : Word) (s : State) : (clearError v s).opi = s.opi := by
  unfold clearError; split <;> rfl
@[simp] theorem clearError_res (v : Word) (s : State) : (clearError v s).res = s.res := by
  unfold clearError; split <;> rfl
@[simp] theorem clearError_done (v : Word) (s : State) : (clearError v s).done = s.done := by
  unfold clearError; split <;> rfl
@[simp] theorem clearError_phase (v : Word) (s : State) : (clearError v s).phase = s.phase := by
  unfold clearError; split <;> rfl
@[simp] theorem clearError_work (v : Word) (s : State) : (clearError v s).work = s.work := by
  unfold clearError; split <;> rfl
@[simp] theorem clearError_roundCounter (v : Word) (s : State) : (clearError v s).roundCounter = s.roundCounter := by
  unfold clearError; split <;> rfl
@[simp] theorem clearError_draws (v : Word) (s : State) : (clearError v s).draws = s.draws := by
  unfold clearError; split <;> rfl
@[simp] theorem clearError_schedule (v : Word) (s : State) : (clearError v s).schedule = s.schedule := by
  unfold clearError; split <;> rfl
@[simp] theorem clearError_resp (v : Word) (s : State) : (clearError v s).resp = s.resp := by
  unfold clearError; split <;> rfl

/-! `writeStatus` -/

@[simp] theorem writeStatus_w (v : Word) (s : State) : (writeStatus v s).w = s.w := by
  simp [writeStatus]
@[simp] theorem writeStatus_h (v : Word) (s : State) : (writeStatus v s).h = s.h := by
  simp [writeStatus]
@[simp] theorem writeStatus_opa (v : Word) (s : State) : (writeStatus v s).opa = s.opa := by
  simp [writeStatus]
@[simp] theorem writeStatus_opb (v : Word) (s : State) : (writeStatus v s).opb = s.opb := by
  simp [writeStatus]
@[simp] theorem writeStatus_opc (v : Word) (s : State) : (writeStatus v s).opc = s.opc := by
  simp [writeStatus]
@[simp] theorem writeStatus_opi (v : Word) (s : State) : (writeStatus v s).opi = s.opi := by
  simp [writeStatus]
@[simp] theorem writeStatus_res (v : Word) (s : State) : (writeStatus v s).res = s.res := by
  simp [writeStatus]
@[simp] theorem writeStatus_phase (v : Word) (s : State) : (writeStatus v s).phase = s.phase := by
  simp [writeStatus]
@[simp] theorem writeStatus_work (v : Word) (s : State) : (writeStatus v s).work = s.work := by
  simp [writeStatus]
@[simp] theorem writeStatus_roundCounter (v : Word) (s : State) : (writeStatus v s).roundCounter = s.roundCounter := by
  simp [writeStatus]
@[simp] theorem writeStatus_draws (v : Word) (s : State) : (writeStatus v s).draws = s.draws := by
  simp [writeStatus]
@[simp] theorem writeStatus_schedule (v : Word) (s : State) : (writeStatus v s).schedule = s.schedule := by
  simp [writeStatus]
@[simp] theorem writeStatus_resp (v : Word) (s : State) : (writeStatus v s).resp = s.resp := by
  simp [writeStatus]

/-! `storeReg` -/

@[simp] theorem storeReg_res (s : State) (r : Reg) (v : Word) : (s.storeReg r v).res = s.res := by
  cases r <;> rfl
@[simp] theorem storeReg_done (s : State) (r : Reg) (v : Word) : (s.storeReg r v).done = s.done := by
  cases r <;> rfl
@[simp] theorem storeReg_err (s : State) (r : Reg) (v : Word) : (s.storeReg r v).err = s.err := by
  cases r <;> rfl
@[simp] theorem storeReg_ecode (s : State) (r : Reg) (v : Word) : (s.storeReg r v).ecode = s.ecode := by
  cases r <;> rfl
@[simp] theorem storeReg_phase (s : State) (r : Reg) (v : Word) : (s.storeReg r v).phase = s.phase := by
  cases r <;> rfl
@[simp] theorem storeReg_work (s : State) (r : Reg) (v : Word) : (s.storeReg r v).work = s.work := by
  cases r <;> rfl
@[simp] theorem storeReg_roundCounter (s : State) (r : Reg) (v : Word) : (s.storeReg r v).roundCounter = s.roundCounter := by
  cases r <;> rfl
@[simp] theorem storeReg_draws (s : State) (r : Reg) (v : Word) : (s.storeReg r v).draws = s.draws := by
  cases r <;> rfl
@[simp] theorem storeReg_schedule (s : State) (r : Reg) (v : Word) : (s.storeReg r v).schedule = s.schedule := by
  cases r <;> rfl
@[simp] theorem storeReg_resp (s : State) (r : Reg) (v : Word) : (s.storeReg r v).resp = s.resp := by
  cases r <;> rfl

/-! `badAccess` -/

@[simp] theorem badAccess_w (d : Option Word) (s : State) : (badAccess d s).w = s.w := by
  simp [badAccess]
@[simp] theorem badAccess_h (d : Option Word) (s : State) : (badAccess d s).h = s.h := by
  simp [badAccess]
@[simp] theorem badAccess_opa (d : Option Word) (s : State) : (badAccess d s).opa = s.opa := by
  simp [badAccess]
@[simp] theorem badAccess_opb (d : Option Word) (s : State) : (badAccess d s).opb = s.opb := by
  simp [badAccess]
@[simp] theorem badAccess_opc (d : Option Word) (s : State) : (badAccess d s).opc = s.opc := by
  simp [badAccess]
@[simp] theorem badAccess_opi (d : Option Word) (s : State) : (badAccess d s).opi = s.opi := by
  simp [badAccess]
@[simp] theorem badAccess_res (d : Option Word) (s : State) : (badAccess d s).res = s.res := by
  simp [badAccess]
@[simp] theorem badAccess_done (d : Option Word) (s : State) : (badAccess d s).done = s.done := by
  simp [badAccess]
@[simp] theorem badAccess_phase (d : Option Word) (s : State) : (badAccess d s).phase = s.phase := by
  simp [badAccess]
@[simp] theorem badAccess_work (d : Option Word) (s : State) : (badAccess d s).work = s.work := by
  simp [badAccess]
@[simp] theorem badAccess_roundCounter (d : Option Word) (s : State) : (badAccess d s).roundCounter = s.roundCounter := by
  simp [badAccess]
@[simp] theorem badAccess_draws (d : Option Word) (s : State) : (badAccess d s).draws = s.draws := by
  simp [badAccess]
@[simp] theorem badAccess_schedule (d : Option Word) (s : State) : (badAccess d s).schedule = s.schedule := by
  simp [badAccess]
@[simp] theorem badAccess_resp (d : Option Word) (s : State) : (badAccess d s).resp = some ⟨.busError, d⟩ := rfl

/-! The flags an operation does write -/

@[simp] theorem raise_err (e : ErrorKind) (s : State) : (raise e s).err = true := by
  unfold raise; split
  · assumption
  · rfl

theorem raise_ecode (e : ErrorKind) (s : State) : (raise e s).ecode = if s.err then s.ecode else e.code := by
  unfold raise; split <;> rfl

/-- `raise` as one record update: the first error is kept. -/
theorem raise_eq (e : ErrorKind) (s : State) :
    raise e s = { s with err := true, ecode := if s.err then s.ecode else e.code } := by
  cases s; unfold raise; split <;> simp_all

@[simp] theorem clearDone_done (v : Word) (s : State) :
    (s.clearDone v).done = if v.getLsbD 1 then false else s.done := by
  unfold State.clearDone; split <;> rfl

@[simp] theorem clearError_err (v : Word) (s : State) :
    (clearError v s).err = if v.getLsbD 2 then false else s.err := by
  unfold clearError; split <;> rfl

@[simp] theorem clearError_ecode (v : Word) (s : State) :
    (clearError v s).ecode = if v.getLsbD 2 then 0 else s.ecode := by
  unfold clearError; split <;> rfl

@[simp] theorem writeStatus_done (v : Word) (s : State) :
    (writeStatus v s).done = if v.getLsbD 1 then false else s.done := by
  simp [writeStatus]

@[simp] theorem writeStatus_err (v : Word) (s : State) :
    (writeStatus v s).err = if v.getLsbD 2 then false else s.err := by
  simp [writeStatus]

@[simp] theorem writeStatus_ecode (v : Word) (s : State) :
    (writeStatus v s).ecode = if v.getLsbD 2 then 0 else s.ecode := by
  simp [writeStatus]

/-- A STATUS write as one record update. -/
theorem writeStatus_eq (v : Word) (s : State) :
    writeStatus v s = { s with
      done := if v.getLsbD 1 then false else s.done, err := if v.getLsbD 2 then false else s.err,
      ecode := if v.getLsbD 2 then 0 else s.ecode } := by
  unfold writeStatus clearError State.clearDone
  cases v.getLsbD 1 <;> cases v.getLsbD 2 <;> rfl

/-- A second error changes nothing. -/
@[simp] theorem raise_raise (e e' : ErrorKind) (s : State) : raise e (raise e' s) = raise e' s :=
  if_pos (raise_err e' s)

/-! BUSY, which is read from PHASE -/

theorem busy_iff (s : State) : s.busy = true ↔ s.phase ≠ .idle := by simp [State.busy]

theorem not_busy_iff (s : State) : s.busy = false ↔ s.phase = .idle := by simp [State.busy]

theorem busy_congr (s t : State) (h : s.phase = t.phase) : s.busy = t.busy := by simp [State.busy, h]

/-- A pending command is one of the three. -/
theorem busy_cases (s : State) (h : s.busy = true) : ∃ op, s.phase = .busy op := by
  cases hp : s.phase with
  | idle => simp [State.busy, hp] at h
  | busy op => exact ⟨op, rfl⟩

@[simp] theorem withSchedule_busy (es : List Event) (s : State) : (s.withSchedule es).busy = s.busy := rfl
@[simp] theorem respond_busy (st : BusStatus) (d : Option Word) (s : State) : (respond st d s).busy = s.busy := rfl
@[simp] theorem raise_busy (e : ErrorKind) (s : State) : (raise e s).busy = s.busy :=
  busy_congr _ _ (raise_phase e s)
@[simp] theorem badAccess_busy (d : Option Word) (s : State) : (badAccess d s).busy = s.busy :=
  busy_congr _ _ (badAccess_phase d s)
@[simp] theorem writeStatus_busy (v : Word) (s : State) : (writeStatus v s).busy = s.busy :=
  busy_congr _ _ (writeStatus_phase v s)
@[simp] theorem storeReg_busy (s : State) (r : Reg) (v : Word) : (s.storeReg r v).busy = s.busy :=
  busy_congr _ _ (storeReg_phase s r v)
@[simp] theorem accept_busy (op : PendOp) (s : State) : (accept op s).busy = true := rfl
@[simp] theorem finish_busy (s : State) : (finish s).busy = false := rfl
@[simp] theorem finishRes_busy (v : Word) (s : State) : (finishRes v s).busy = false := rfl
@[simp] theorem finishState_busy (v : Vector Word 5) (s : State) : (finishState v s).busy = false := rfl
@[simp] theorem advanceRound_busy (i : Fin 80) (s : State) : (advanceRound i s).busy = s.busy := rfl
@[simp] theorem loadWork_busy (s : State) : (loadWork s).busy = s.busy := rfl
@[simp] theorem releaseWork_busy (s : State) : (releaseWork s).busy = s.busy := rfl
@[simp] theorem resetNow_busy (s : State) : (resetNow s).busy = false := rfl

/-- Two next states are equal outcomes exactly when they are equal. -/
theorem next_inj {s t : State} :
    (Host.Outcome.next s : Host.Outcome State Fault Refusal) = .next t ↔ s = t :=
  ⟨fun h => Host.Outcome.next.inj h, fun h => h ▸ rfl⟩

/-! Reset -/

@[simp] theorem afterReset_phase (n : Nat) : (State.afterReset n).phase = .idle := rfl
@[simp] theorem afterReset_done (n : Nat) : (State.afterReset n).done = false := rfl
@[simp] theorem afterReset_err (n : Nat) : (State.afterReset n).err = false := rfl
@[simp] theorem afterReset_ecode (n : Nat) : (State.afterReset n).ecode = 0 := rfl
@[simp] theorem afterReset_draws (n : Nat) : (State.afterReset n).draws = n + 96 := rfl
@[simp] theorem afterReset_schedule (n : Nat) : (State.afterReset n).schedule = [] := rfl
@[simp] theorem afterReset_resp (n : Nat) : (State.afterReset n).resp = none := rfl
@[simp] theorem resetNow_phase (s : State) : (resetNow s).phase = .idle := rfl
@[simp] theorem resetNow_done (s : State) : (resetNow s).done = false := rfl
@[simp] theorem resetNow_err (s : State) : (resetNow s).err = false := rfl
@[simp] theorem resetNow_ecode (s : State) : (resetNow s).ecode = 0 := rfl
@[simp] theorem resetNow_schedule (s : State) : (resetNow s).schedule = s.schedule := by
  simp only [resetNow, withSchedule_schedule]
@[simp] theorem resetNow_draws (s : State) : (resetNow s).draws = s.draws + 96 := rfl
@[simp] theorem resetNow_resp (s : State) : (resetNow s).resp = none := rfl

/-- A drawn round counter keeps the bound I has (10_state R36). -/
theorem drawCounter_le (v : Word) : (drawCounter v).toNat ≤ 80 := by
  have h : v.toNat % 81 < 81 := Nat.mod_lt _ (by decide)
  simp only [drawCounter, BitVec.toNat_ofNat]
  omega

end Sys2Proof.Machine
end

