-- ==== Sys2Proof/Laws/Window.lean ====
section
/-! SUPPORT. The address map and the host accesses: what `accessed`, `memRead` and `memWrite` can do. -/

namespace Sys2Proof.Machine

/-- The map finds every register at its own word number (20_memory R51). -/
theorem regAtWord_offset (r : Reg) : regAtWord (r.offset.extractLsb' 2 7) = some r := by
  cases r with
  | w j => revert j; decide
  | h j => revert j; decide
  | _ => decide

/-- Every register stands at a word-aligned offset (20_memory R51). -/
theorem offset_aligned (r : Reg) : r.offset.extractLsb' 0 2 = 0 := by
  cases r with
  | w j => revert j; decide
  | h j => revert j; decide
  | _ => decide

/-- A 4-byte access at a register's offset reaches that register. -/
@[simp] theorem accessed_offset (r : Reg) : accessed r.offset 4 = some r := by
  simp [accessed, offset_aligned, regAtWord_offset]

/-- A 4-byte read at a register's offset. -/
@[simp] theorem memRead_offset (r : Reg) (s : State) :
    memRead r.offset 4 s = respond .ok (some (s.readReg r)) s := by
  simp [memRead]

/-- A 4-byte write at a register's offset. -/
@[simp] theorem memWrite_offset (r : Reg) (v : Word) (s : State) : memWrite r.offset 4 v s = writeReg r v s := by
  simp [memWrite]

/-- No two registers share an offset: no two names alias (10_state R26). -/
theorem offset_injective {r r' : Reg} (h : r.offset = r'.offset) : r = r' := by
  have := accessed_offset r
  rw [h, accessed_offset] at this
  exact (Option.some.inj this).symm

/-- Whatever the map finds at a word number stands at that word's offset. -/
theorem offset_regAtWord : ∀ k : BitVec 7, ∀ r ∈ regAtWord k, r.offset = k ++ (0 : BitVec 2) := by
  decide

/-- An access reaches a register only with 4 bytes at exactly that register's offset. -/
theorem accessed_eq_some {off : Offset} {size : Nat} {r : Reg} :
    accessed off size = some r ↔ size = 4 ∧ off = r.offset := by
  constructor
  · intro h
    unfold accessed at h
    split at h
    · rename_i hc
      refine ⟨hc.1, ?_⟩
      rw [offset_regAtWord _ r h]
      have h0 : off.toNat % 4 = 0 := by simpa using congrArg BitVec.toNat hc.2
      apply BitVec.eq_of_toNat_eq
      have hlt := off.isLt
      simp only [BitVec.toNat_append, BitVec.extractLsb'_toNat, BitVec.ofNat_eq_ofNat, BitVec.toNat_ofNat]
      rw [Nat.shiftLeft_eq, Nat.shiftRight_eq_div_pow, Nat.zero_mod, Nat.or_zero]
      omega
    · cases h
  · rintro ⟨rfl, rfl⟩
    exact accessed_offset r

/-- `memRead` changes nothing but the response, and ERR and ECODE where the access is BAD_ACCESS. -/
theorem memRead_cases (off : Offset) (size : Nat) (s : State) :
    (accessed off size = none ∧ memRead off size s = badAccess (some 0) s) ∨
      ∃ r, accessed off size = some r ∧ memRead off size s = respond .ok (some (s.readReg r)) s := by
  cases h : accessed off size with
  | none => exact .inl ⟨rfl, by simp [memRead, h]⟩
  | some r => exact .inr ⟨r, rfl, by simp [memRead, h]⟩

/-- What `exec` does while a command is pending. -/
theorem exec_busy (i : Instr) (s : State) (h : s.busy = true) : exec i s = .next (raise .busyViolation s) := by
  cases i <;> simp [exec, execNop, execCompress, execRotl, execMix, whenIdle, h]

/-- Everything a host write can do: one clause per branch of `MemWrite`. -/
theorem memWrite_cases (off : Offset) (size : Nat) (v : Word) (s : State) :
    ((∀ r : Reg, off = r.offset → size = 4 → r.writeClass = .readOnly) ∧
      memWrite off size v s = .next (badAccess none s)) ∨
    (off = Reg.status.offset ∧ size = 4 ∧ memWrite off size v s = .next (respond .ok none (writeStatus v s))) ∨
    (∃ r : Reg, s.busy = true ∧ (r.writeClass = .input ∨ r.writeClass = .command) ∧ off = r.offset ∧ size = 4 ∧
      memWrite off size v s = .next (respond .ok none (raise .busyViolation s))) ∨
    (∃ r : Reg, s.busy = false ∧ r.writeClass = .input ∧ off = r.offset ∧ size = 4 ∧
      memWrite off size v s = .next (respond .ok none (s.storeReg r v))) ∨
    (s.busy = false ∧ off = Reg.cmd.offset ∧ size = 4 ∧ memWrite off size v s = issue v (respond .ok none s)) := by
  cases h : accessed off size with
  | none =>
    refine .inl ⟨fun r ho hn => ?_, by simp [memWrite, h]⟩
    subst ho hn
    simp at h
  | some r =>
    obtain ⟨rfl, rfl⟩ := accessed_eq_some.1 h
    rw [memWrite_offset]
    cases hc : r.writeClass with
    | readOnly =>
      exact .inl ⟨fun r' ho _ => offset_injective ho ▸ hc, by simp [writeReg, hc]⟩
    | writeOneToClear =>
      have hr : r = .status := by cases r <;> simp [Reg.writeClass] at hc ⊢
      exact .inr (.inl ⟨by rw [hr], rfl, by simp [writeReg, hc]⟩)
    | input =>
      cases hb : s.busy with
      | true => exact .inr (.inr (.inl ⟨r, rfl, .inl hc, rfl, rfl, by simp [writeReg, hc, hb]⟩))
      | false => exact .inr (.inr (.inr (.inl ⟨r, rfl, hc, rfl, rfl, by simp [writeReg, hc, hb]⟩)))
    | command =>
      have hr : r = .cmd := by cases r <;> simp [Reg.writeClass] at hc ⊢
      cases hb : s.busy with
      | true => exact .inr (.inr (.inl ⟨r, rfl, .inr hc, rfl, rfl, by simp [writeReg, hc, hb]⟩))
      | false => exact .inr (.inr (.inr (.inr ⟨rfl, by rw [hr], rfl, by simp [writeReg, hc, hb]⟩)))

/-- Everything a command word written while idle can do: it is illegal, it is NOP, or it is accepted. -/
theorem issue_cases (v : Word) (s : State) (h : s.busy = false) :
    ((∃ x, decode v = .error x) ∧ issue v s = .next (raise .illegalCmd s)) ∨
    (decode v = .ok .nop ∧ issue v s = .next s) ∨
    (decode v = .ok .compress ∧ issue v s = .next (loadWork (accept .compress s))) ∨
    (decode v = .ok .rotl ∧ issue v s = .next (accept .rotl s)) ∨
    (decode v = .ok .mix ∧ issue v s = .next (accept .mix s)) := by
  cases hd : decode v with
  | error x => exact .inl ⟨⟨x, rfl⟩, by simp [issue, hd]⟩
  | ok i => cases i <;> simp [issue, hd, exec, execNop, execCompress, execRotl, execMix, whenIdle, h]

/-- A STATUS bit is where 10_state R30 puts it; the rest are 0. -/
theorem statusWord_getLsbD (s : State) (k : Nat) :
    s.statusWord.getLsbD k = (k == 0 && s.busy || k == 1 && s.done || k == 2 && s.err
      || decide (4 ≤ k) && s.ecode.getLsbD (k - 4)) := by
  unfold State.statusWord flagWord
  rcases k with _ | _ | _ | _ | k
  · simp
  · simp
  · simp
  · simp
  · by_cases hk : k < 4
    · interval_cases k <;> simp
    · have h4 : s.ecode.getLsbD k = false := BitVec.getLsbD_of_ge _ _ (by omega)
      simp [h4]

/-! What leaves a host program's end state (70_reset R202) as it is -/

@[simp] theorem respond_endState (st : BusStatus) (d : Option Word) (s : State) :
    (respond st d s).endState = s.endState := rfl
@[simp] theorem withSchedule_endState (es : List Event) (s : State) : (s.withSchedule es).endState = s.endState := rfl

/-- A completion that writes RES changes RES and STATUS alone. -/
theorem finishRes_endState (v : Word) (s : State) :
    (finishRes v s).endState = { s.endState with status := (finishRes v s).statusWord, res := v } := rfl

end Sys2Proof.Machine
end

