-- ==== Sys2Proof/Laws/Core.lean ====
section
/-! SUPPORT. The rounds, and everything a step of the core, an event and `step` can do. -/

namespace Sys2Proof.Machine

@[simp] theorem rounds_nil (w : Vector Word 80) (x : Work) : rounds w [] x = x := rfl

@[simp] theorem rounds_cons (w : Vector Word 80) (i : Fin 80) (is : List (Fin 80)) (x : Work) :
    rounds w (i :: is) x = rounds w is (roundOf i x w[i]) := rfl

/-- Rounds one after the other: first `is`, then `js`. -/
theorem rounds_append (w : Vector Word 80) (is js : List (Fin 80)) (x : Work) :
    rounds w (is ++ js) x = rounds w js (rounds w is x) := by
  simp [rounds]

/-- The first n + 1 round indices are the first n and then n. -/
theorem take_succ_finRange (n : Nat) (h : n < 80) :
    (List.finRange 80).take (n + 1) = (List.finRange 80).take n ++ [⟨n, h⟩] := by
  rw [List.take_add_one]
  simp [h]

/-- Everything `compressRound` can do. -/
theorem compressRound_cases (s : State) :
    (∃ h : s.roundCounter.toNat < 80, compressRound s = .next (advanceRound ⟨s.roundCounter.toNat, h⟩ s)) ∨
    (s.roundCounter.toNat = 80 ∧ compressRound s = .next s) ∨
    (80 < s.roundCounter.toNat ∧ compressRound s = .fault .roundCounterAbove80) := by
  unfold compressRound
  split
  · exact .inl ⟨‹_›, rfl⟩
  · split
    · exact .inr (.inl ⟨‹_›, rfl⟩)
    · exact .inr (.inr ⟨by omega, rfl⟩)

/-- Everything a round event can do. -/
theorem coreRound_cases (s : State) :
    (s.phase ≠ .busy .compress ∧ coreRound s = .next s) ∨
    (s.phase = .busy .compress ∧ coreRound s = compressRound s) := by
  unfold coreRound
  split <;> simp_all

/-- Everything the completion step can do. -/
theorem coreComplete_cases (ff : Bool) (s : State) :
    (s.phase = .idle ∧ coreComplete ff s = .next s) ∨
    (s.phase = .busy .compress ∧ s.roundCounter.toNat ≤ 80 ∧ coreComplete ff s =
      .next (releaseWork (finishState (writeBack ff s.h (remainingRounds s)) s))) ∨
    (s.phase = .busy .compress ∧ 80 < s.roundCounter.toNat ∧ coreComplete ff s = .fault .roundCounterAbove80) ∨
    (s.phase = .busy .rotl ∧ coreComplete ff s = .next (finishRes (rotl32 s.opa s.opb) s)) ∨
    (s.phase = .busy .mix ∧ coreComplete ff s =
      .next (finishRes (mix s.roundIndex s.opa s.opb s.opc) s)) := by
  unfold coreComplete
  split <;> rename_i hp
  · exact .inl ⟨hp, rfl⟩
  · unfold completeCompress
    split
    · exact .inr (.inl ⟨hp, ‹_›, rfl⟩)
    · exact .inr (.inr (.inl ⟨hp, by omega, rfl⟩))
  · exact .inr (.inr (.inr (.inl ⟨hp, rfl⟩)))
  · exact .inr (.inr (.inr (.inr ⟨hp, rfl⟩)))

/-- A step with something scheduled performs it. -/
theorem stepWith_cons (ff : Bool) (s : State) (e : Event) (rest : List Event) (h : s.schedule = e :: rest) :
    stepWith ff s = perform ff e (s.withSchedule rest) := by
  simp [stepWith, h]

/-- A step with nothing scheduled is the core's. -/
theorem stepWith_nil (ff : Bool) (s : State) (h : s.schedule = []) : stepWith ff s = coreClock ff s := by
  simp [stepWith, h]

/-- The core left to itself does a round or the completion. -/
theorem coreClock_cases (ff : Bool) (s : State) :
    (s.phase = .busy .compress ∧ s.roundCounter.toNat < 80 ∧ coreClock ff s = coreRound s) ∨
    (¬(s.phase = .busy .compress ∧ s.roundCounter.toNat < 80) ∧ coreClock ff s = coreComplete ff s) := by
  unfold coreClock
  split
  · exact .inl ⟨by simp_all, by simp_all, rfl⟩
  · exact .inr ⟨‹_›, rfl⟩

/-- When the working registers hold the rounds before I, the rounds still to come make the whole 80. -/
theorem remainingRounds_eq (s : State) (h : s.work = roundsDone s) :
    remainingRounds s = rounds s.w (List.finRange 80) (loadState s.h) := by
  unfold remainingRounds
  rw [h, roundsDone, ← rounds_append, List.take_append_drop]

end Sys2Proof.Machine
end

