-- ==== Sys2Proof/Laws/PerInstr.lean ====
section
/-! SUPPORT. Statements made once per command. -/

namespace Sys2Proof.Laws.EncodeFits

/-- The word of a command is well formed, its RSV is 0 and its OP is the command's own code (30_encoding R71, R74). -/
def Statement (i : Instr) : Prop :=
  commandWordWellFormed (encode i) = true ∧ rsvField (encode i) = 0 ∧ opcodeMap (opField (encode i)) = some i

theorem nop : Statement .nop := by unfold Statement; decide
theorem compress : Statement .compress := by unfold Statement; decide
theorem rotl : Statement .rotl := by unfold Statement; decide
theorem mix : Statement .mix := by unfold Statement; decide

end Sys2Proof.Laws.EncodeFits
end

