-- ==== Sys2Proof/Laws/Step.lean ====
section
/-! SUPPORT. Everything one step can do, said once: `effect_of_step`. -/

namespace Sys2Proof.Machine

/-- The next states a step can have. `e` is the event performed, `none` where nothing was scheduled, and `s` is the state
with that event taken off the schedule. -/
inductive Effect (ff : Bool) (e : Option Event) (s : State) : State → Prop where
  /-- Nothing is enabled. -/
  | still (he : e = none ∨ e = some .round ∨ e = some .complete) (hp : e ≠ some .round → s.phase = .idle) :
      Effect ff e s s
  /-- One round of a pending COMPRESS. -/
  | round (he : e = none ∨ e = some .round) (hp : s.phase = .busy .compress) (hi : s.roundCounter.toNat < 80) :
      Effect ff e s (advanceRound ⟨s.roundCounter.toNat, hi⟩ s)
  /-- The completion of COMPRESS. -/
  | compress (he : e = none ∨ e = some .complete) (hp : s.phase = .busy .compress) (hi : s.roundCounter.toNat ≤ 80) :
      Effect ff e s (releaseWork (finishState (writeBack ff s.h (remainingRounds s)) s))
  /-- The completion of ROTL. -/
  | rotl (he : e = none ∨ e = some .complete) (hp : s.phase = .busy .rotl) :
      Effect ff e s (finishRes (rotl32 s.opa s.opb) s)
  /-- The completion of MIX. -/
  | mix (he : e = none ∨ e = some .complete) (hp : s.phase = .busy .mix) :
      Effect ff e s (finishRes (mix s.roundIndex s.opa s.opb s.opc) s)
  /-- Reset. -/
  | reset (he : e = some .reset) : Effect ff e s (resetNow s)
  /-- A read that is BAD_ACCESS. -/
  | badRead (off : Offset) (n : Nat) (he : e = some (.read off n)) : Effect ff e s (badAccess (some 0) s)
  /-- A read of a register. -/
  | read (r : Reg) (he : e = some (.read r.offset 4)) : Effect ff e s (respond .ok (some (s.readReg r)) s)
  /-- A write that is BAD_ACCESS. -/
  | badWrite (off : Offset) (n : Nat) (v : Word) (he : e = some (.write off n v))
      (hw : ∀ r : Reg, off = r.offset → n = 4 → r.writeClass = .readOnly) : Effect ff e s (badAccess none s)
  /-- A write to STATUS. -/
  | status (v : Word) (he : e = some (.write Reg.status.offset 4 v)) : Effect ff e s (respond .ok none (writeStatus v s))
  /-- A write dropped because a command is pending. -/
  | dropped (r : Reg) (v : Word) (he : e = some (.write r.offset 4 v)) (hb : s.busy = true)
      (hc : r.writeClass = .input ∨ r.writeClass = .command) : Effect ff e s (respond .ok none (raise .busyViolation s))
  /-- A write to a data register. -/
  | store (r : Reg) (v : Word) (he : e = some (.write r.offset 4 v)) (hb : s.busy = false) (hc : r.writeClass = .input) :
      Effect ff e s (respond .ok none (s.storeReg r v))
  /-- A reserved command word. -/
  | illegal (v : Word) (he : e = some (.write Reg.cmd.offset 4 v)) (hb : s.busy = false) (x : DecodeReject)
      (hd : decode v = .error x) : Effect ff e s (raise .illegalCmd (respond .ok none s))
  /-- NOP. -/
  | nop (v : Word) (he : e = some (.write Reg.cmd.offset 4 v)) (hb : s.busy = false) (hd : decode v = .ok .nop) :
      Effect ff e s (respond .ok none s)
  /-- The acceptance of COMPRESS. -/
  | acceptCompress (v : Word) (he : e = some (.write Reg.cmd.offset 4 v)) (hb : s.busy = false)
      (hd : decode v = .ok .compress) : Effect ff e s (loadWork (accept .compress (respond .ok none s)))
  /-- The acceptance of ROTL. -/
  | acceptRotl (v : Word) (he : e = some (.write Reg.cmd.offset 4 v)) (hb : s.busy = false) (hd : decode v = .ok .rotl) :
      Effect ff e s (accept .rotl (respond .ok none s))
  /-- The acceptance of MIX. -/
  | acceptMix (v : Word) (he : e = some (.write Reg.cmd.offset 4 v)) (hb : s.busy = false) (hd : decode v = .ok .mix) :
      Effect ff e s (accept .mix (respond .ok none s))

theorem effect_of_round {ff : Bool} {e : Option Event} {s t : State} (he : e = none ∨ e = some .round)
    (hn : e = none → s.phase = .busy .compress ∧ s.roundCounter.toNat < 80) (h : coreRound s = .next t) :
    Effect ff e s t := by
  have hs : e ≠ some .round → s.phase = .idle ∨ s.phase = .busy .compress ∧ s.roundCounter.toNat < 80 :=
    fun hne => .inr (hn (he.resolve_right hne))
  rcases coreRound_cases s with ⟨hp, h1⟩ | ⟨hp, h1⟩ <;> rw [h1] at h
  · obtain rfl := next_inj.1 h
    exact .still (by tauto) fun hne => (hs hne).resolve_right fun hc => hp hc.1
  · rcases compressRound_cases s with ⟨hi, h2⟩ | ⟨hi, h2⟩ | ⟨_, h2⟩ <;> rw [h2] at h
    · obtain rfl := next_inj.1 h
      exact .round he hp hi
    · obtain rfl := next_inj.1 h
      exact .still (by tauto) fun hne => (hs hne).resolve_right fun hc => by omega
    · cases h

theorem effect_of_complete {ff : Bool} {e : Option Event} {s t : State} (he : e = none ∨ e = some .complete)
    (h : coreComplete ff s = .next t) : Effect ff e s t := by
  rcases coreComplete_cases ff s with ⟨hp, h1⟩ | ⟨hp, hi, h1⟩ | ⟨_, _, h1⟩ | ⟨hp, h1⟩ | ⟨hp, h1⟩ <;> rw [h1] at h
  · obtain rfl := next_inj.1 h
    exact .still (by tauto) fun _ => hp
  · obtain rfl := next_inj.1 h
    exact .compress he hp hi
  · cases h
  · obtain rfl := next_inj.1 h
    exact .rotl he hp
  · obtain rfl := next_inj.1 h
    exact .mix he hp

theorem effect_of_write {ff : Bool} {off : Offset} {n : Nat} {v : Word} {s t : State}
    (h : memWrite off n v s = .next t) : Effect ff (some (.write off n v)) s t := by
  rcases memWrite_cases off n v s with ⟨hw, h1⟩ | ⟨rfl, rfl, h1⟩ | ⟨r, hb, hc, rfl, rfl, h1⟩ |
      ⟨r, hb, hc, rfl, rfl, h1⟩ | ⟨hb, rfl, rfl, h1⟩ <;> rw [h1] at h
  · obtain rfl := next_inj.1 h
    exact .badWrite off n v rfl hw
  · obtain rfl := next_inj.1 h
    exact .status v rfl
  · obtain rfl := next_inj.1 h
    exact .dropped r v rfl hb hc
  · obtain rfl := next_inj.1 h
    exact .store r v rfl hb hc
  · rcases issue_cases v (respond .ok none s) hb with ⟨⟨x, hd⟩, h2⟩ | ⟨hd, h2⟩ | ⟨hd, h2⟩ | ⟨hd, h2⟩ | ⟨hd, h2⟩ <;>
      rw [h2] at h <;> obtain rfl := next_inj.1 h
    · exact .illegal v rfl hb x hd
    · exact .nop v rfl hb hd
    · exact .acceptCompress v rfl hb hd
    · exact .acceptRotl v rfl hb hd
    · exact .acceptMix v rfl hb hd

/-- Everything one step can do when it answers a next state. -/
theorem effect_of_step {ff : Bool} {s t : State} (h : stepWith ff s = .next t) :
    Effect ff s.schedule.head? (s.withSchedule s.schedule.tail) t := by
  cases hs : s.schedule with
  | nil =>
    rw [stepWith_nil ff s hs] at h
    have he : s.withSchedule ([] : List Event).tail = s := by cases s; simp_all [State.withSchedule]
    rw [he]
    rcases coreClock_cases ff s with ⟨hp, hi, h1⟩ | ⟨_, h1⟩ <;> rw [h1] at h
    · exact effect_of_round (.inl rfl) (fun _ => ⟨hp, hi⟩) h
    · exact effect_of_complete (.inl rfl) h
  | cons e rest =>
    rw [stepWith_cons ff s e rest hs] at h
    cases e with
    | read off n =>
      obtain rfl := next_inj.1 h
      rcases memRead_cases off n (s.withSchedule rest) with ⟨_, h1⟩ | ⟨r, hr, h1⟩ <;> rw [h1]
      · exact .badRead off n rfl
      · obtain ⟨rfl, rfl⟩ := accessed_eq_some.1 hr
        exact .read r rfl
    | write off n v => exact effect_of_write h
    | round => exact effect_of_round (.inr rfl) (fun hn => by cases hn) h
    | complete => exact effect_of_complete (.inr rfl) h
    | reset =>
      obtain rfl := next_inj.1 h
      exact .reset rfl

end Sys2Proof.Machine
end

