-- ==== Sys2Proof/Laws/Run.lean ====
section
/-! SUPPORT. Runs of the machine: `Host.Core.run` on `core`, one step at a time. -/

namespace Sys2Proof.Machine

@[simp] theorem run_zero (s : State) : core.run 0 s = .next s := rfl

/-- A run whose first step answers a next state goes on from there. -/
theorem run_succ_of_next {k : Nat} {s t : State} (h : step s = .next t) : core.run (k + 1) s = core.run k t := by
  have hc : core.step s = .next t := h
  simp only [Host.Core.run, hc]

/-- A run of one step. -/
theorem run_one_of_next {s t : State} (h : step s = .next t) : core.run 1 s = .next t :=
  run_succ_of_next (k := 0) h

/-- A run in two parts. -/
theorem run_add {a b : Nat} {s t : State} (h : core.run a s = .next t) : core.run (a + b) s = core.run b t := by
  induction a generalizing s with
  | zero =>
    obtain rfl := next_inj.1 h
    rw [Nat.zero_add]
  | succ a ih =>
    cases hs : step s with
    | next u =>
      rw [run_succ_of_next hs] at h
      rw [Nat.add_right_comm, run_succ_of_next hs]
      exact ih h
    | fault r =>
      have hc : core.step s = .fault r := hs
      simp only [Host.Core.run, hc] at h
      cases h
    | refused r =>
      have hc : core.step s = .refused r := hs
      simp only [Host.Core.run, hc] at h
      cases h

/-! A run of the machine beside one host -/

@[simp] theorem hostRun_nil (p : HostProgress) (s : State) : hostRun [] p s = some (p, s) := rfl

/-- A run beside a host whose first step answers a next state goes on from there. -/
theorem hostRun_cons_of_next {own : Bool} {marks : List Bool} {p : HostProgress} {s t : State} (h : step s = .next t) :
    hostRun (own :: marks) p s = hostRun marks (p.after own s t) t := by
  simp only [hostRun, h]

/-- A run beside a host that goes on for one more step took that step. -/
theorem step_of_hostRun_cons {own : Bool} {marks : List Bool} {p : HostProgress} {s : State} {x : HostProgress × State}
    (h : hostRun (own :: marks) p s = some x) :
    ∃ t, step s = .next t ∧ hostRun marks (p.after own s t) t = some x := by
  cases hs : step s with
  | next t => exact ⟨t, rfl, by rwa [hostRun_cons_of_next hs] at h⟩
  | fault r => simp [hostRun, hs] at h
  | refused r => simp [hostRun, hs] at h

/-- A run beside a host in two parts. -/
theorem hostRun_append {m m' : List Bool} {p q : HostProgress} {s t : State} (h : hostRun m p s = some (q, t)) :
    hostRun (m ++ m') p s = hostRun m' q t := by
  induction m generalizing p s with
  | nil =>
    obtain ⟨rfl, rfl⟩ := Prod.mk.inj (Option.some.inj h)
    rfl
  | cons own m ih =>
    obtain ⟨u, hu, h'⟩ := step_of_hostRun_cons h
    rw [List.cons_append, hostRun_cons_of_next hu]
    exact ih h'

/-- The access writes a command exactly when it is a 4-byte write to CMD of a well-formed word. -/
theorem writesCommand_iff {e : Event} :
    writesCommand e = true ↔ ∃ v, commandWordWellFormed v = true ∧ e = .write Reg.cmd.offset 4 v := by
  cases e with
  | write off size v =>
    simp only [writesCommand, Bool.and_eq_true, decide_eq_true_eq, accessed_eq_some, Event.write.injEq]
    constructor
    · rintro ⟨⟨rfl, rfl⟩, hv⟩
      exact ⟨v, hv, rfl, rfl, rfl⟩
    · rintro ⟨_, hv, rfl, rfl, rfl⟩
      exact ⟨⟨rfl, rfl⟩, hv⟩
  | _ => simp [writesCommand]

@[simp] theorem perform_left (e : Event) (t : State) (p : HostProgress) : (p.perform e t).left = p.left.tail := rfl
@[simp] theorem perform_unseen (e : Event) (t : State) (p : HostProgress) :
    (p.perform e t).unseen = (writesCommand e || (p.unseen && !seesIdle e t)) := rfl

/-- A step that is not the host's own is nothing to it. -/
@[simp] theorem after_other (s t : State) (p : HostProgress) : p.after false s t = p := by
  unfold HostProgress.after
  split <;> simp

/-- A step that performs the next line of the host's program. -/
theorem after_own {e : Event} {s t : State} {p : HostProgress} {rest : List Event} (hs : s.schedule = e :: rest)
    (hp : p.left.head? = some e) : p.after true s t = p.perform e t := by
  simp [HostProgress.after, hs, hp]

/-- Everything a step can be to a host: nothing, or its next line performed. -/
theorem after_cases (own : Bool) (s t : State) (p : HostProgress) :
    p.after own s t = p ∨ ∃ e, p.left.head? = some e ∧ p.after own s t = p.perform e t := by
  unfold HostProgress.after
  split
  · exact .inl rfl
  · rename_i e _ _
    by_cases h : own = true ∧ p.left.head? = some e
    · exact .inr ⟨e, h.2, if_pos h⟩
    · exact .inl (if_neg h)

end Sys2Proof.Machine
end

