-- ==== Sys2Proof/Tests/Slice0.lean ====
section
/-! SUPPORT. The model's own tests. Expected values are those of spec/95_test_vectors.md, or worked by hand from the rule
a test names. The second half shows, for each statement with hypotheses, a concrete case that meets them. -/

namespace Sys2Proof.Tests

open Sys2Proof Sys2Proof.Machine

/-! ### A small state -/

/-- Idle, STATUS 0, every register 0. -/
def blank : State where
  w := Vector.replicate 80 0
  h := Vector.replicate 5 0
  opa := 0
  opb := 0
  opc := 0
  opi := 0
  res := 0
  done := false
  err := false
  ecode := 0
  phase := .idle
  work := ⟨0, 0, 0, 0, 0⟩
  roundCounter := 0
  draws := 0
  schedule := []
  resp := none

/-- `blank` with a command pending. -/
def pending (op : PendOp) : State := { blank with phase := .busy op }

/-- `pending .compress` with every round taken. -/
def lastRound : State :=
  { pending .compress with
    roundCounter := 80, work := rounds blank.w ((List.finRange 80).take 80) (loadState blank.h) }

/-- One observation of a next state. -/
def look {α : Type} (f : State → α) : Host.Outcome State Fault Refusal → Option α
  | .next s => some (f s)
  | .fault _ => none
  | .refused _ => none

/-! ### Well-formedness: each check refuses an ill-formed term -/

theorem test_wf_reserved_bit : commandWordWellFormed 0x00000011 = false := by decide
theorem test_wf_top_bit : commandWordWellFormed 0x80000000 = false := by decide
theorem test_wf_opcode : commandWordWellFormed 0x00000004 = false := by decide
theorem test_wf_mix : commandWordWellFormed 0x00000003 = true := by decide
theorem test_wf_instr : Instr.wellFormed .compress = true := by decide

/-! ### Decoding: words written out from 30_encoding R71 and R74 -/

theorem test_decode_nop : decode 0b00000000000000000000000000000000 = .ok .nop := by decide
theorem test_decode_compress : decode 0b00000000000000000000000000000001 = .ok .compress := by decide
theorem test_decode_rotl : decode 0b00000000000000000000000000000010 = .ok .rotl := by decide
theorem test_decode_mix : decode 0b00000000000000000000000000000011 = .ok .mix := by decide
theorem test_decode_reserved_opcode : decode 0b00000000000000000000000000000111 = .error .reservedOpcode := by decide
theorem test_decode_reserved_bit : decode 0b00000000000000000000000000010001 = .error .reservedBits := by decide
theorem test_decode_top_bit : decode 0b10000000000000000000000000000001 = .error .reservedBits := by decide
theorem test_table_word : decodeTableWord 32 2 = some .rotl := by decide
theorem test_table_word_too_long : decodeTableWord 40 (2 ^ 32 + 2) = none := by decide

/-! ### The functions -/

-- 95 §2.1
theorem test_rotl32_28 : rotl32 0x12345678 0x1C = 0x81234567 := by decide
theorem test_rotl32_all_ones : rotl32 0x12345678 0xFFFFFFFF = 0x091A2B3C := by decide
theorem test_rotl32_32 : rotl32 0x12345678 0x20 = 0x12345678 := by decide
-- 95 §2.2
theorem test_mix_40 : mix 40 0xF0F0F0F0 0xFF00FF00 0x0FF00FF0 = 0xFFF0FFF0 := by decide
theorem test_mix_choose : mix 0 0x12345678 0x9ABCDEF0 0x0F1E2D3C = 0x1F3E7F74 := by decide
theorem test_mix_parity : mix 60 0x12345678 0x9ABCDEF0 0x0F1E2D3C = 0x8796A5B4 := by decide
theorem test_mix_majority : mix 59 0x12345678 0x9ABCDEF0 0x0F1E2D3C = 0x1A3C5E78 := by decide
theorem test_mix_negative : mix (-1) 0xF0F0F0F0 0xFF00FF00 0x0FF00FF0 = 0 := by decide
theorem test_mix_80 : mix 80 0xF0F0F0F0 0xFF00FF00 0x0FF00FF0 = 0 := by decide
-- 95 §2.4
theorem test_round_0 : roundOf 0 ⟨0x67452301, 0xEFCDAB89, 0x98BADCFE, 0x10325476, 0xC3D2E1F0⟩ 0x80000000 =
    ⟨0x1FB498B3, 0x67452301, 0x7BF36AE2, 0x98BADCFE, 0x10325476⟩ := by decide
theorem test_round_59 : (roundOf 59 ⟨0x67452301, 0xEFCDAB89, 0x98BADCFE, 0x10325476, 0xC3D2E1F0⟩ 0).a = 0xD44DDBF6 := by
  decide
theorem test_round_60 : (roundOf 60 ⟨0x67452301, 0xEFCDAB89, 0x98BADCFE, 0x10325476, 0xC3D2E1F0⟩ 0).a = 0xDE1F26F3 := by
  decide
theorem test_round_wrap : (roundOf 0 ⟨0xFFFFFFFF, 0xFFFFFFFF, 0xFFFFFFFF, 0xFFFFFFFF, 0xFFFFFFFF⟩ 0xFFFFFFFF).a =
    0x5A827995 := by decide

/-- Schedule E, 95 §4.1. -/
def scheduleE : List Word :=
    [0x80000000, 0x00000000, 0x00000000, 0x00000000, 0x00000000, 0x00000000, 0x00000000, 0x00000000] ++
    [0x00000000, 0x00000000, 0x00000000, 0x00000000, 0x00000000, 0x00000000, 0x00000000, 0x00000000] ++
    [0x00000001, 0x00000000, 0x00000000, 0x00000002, 0x00000000, 0x00000000, 0x00000004, 0x00000000] ++
    [0x00000002, 0x00000008, 0x00000000, 0x00000000, 0x00000010, 0x00000000, 0x0000000A, 0x00000020] ++
    [0x00000006, 0x00000000, 0x00000040, 0x00000008, 0x00000028, 0x00000080, 0x00000008, 0x00000000] ++
    [0x00000108, 0x00000000, 0x000000A0, 0x00000200, 0x00000064, 0x00000000, 0x00000408, 0x00000088] ++
    [0x0000029C, 0x00000800, 0x00000080, 0x00000028, 0x00001088, 0x00000000, 0x00000A40, 0x00002000] ++
    [0x00000668, 0x00000080, 0x00004088, 0x00000880, 0x000028C8, 0x00008000, 0x000008A8, 0x00000080] ++
    [0x000108E8, 0x00000000, 0x0000A000, 0x00020080, 0x00006400, 0x00000000, 0x00040800, 0x00008800] ++
    [0x00029C10, 0x00080000, 0x00008080, 0x00002820, 0x001088C0, 0x00000000, 0x000A40C0, 0x00200080]

/-- The standard initial state, 70_reset R194. -/
def initialState : Vector Word 5 := #v[0x67452301, 0xEFCDAB89, 0x98BADCFE, 0x10325476, 0xC3D2E1F0]

/-- `blank` with the empty message's inputs, COMPRESS accepted. -/
def emptyMessage : State :=
  { blank with w := ⟨scheduleE.toArray, by decide⟩, h := initialState, phase := .busy .compress, work := loadState initialState }

set_option maxRecDepth 20000 in
-- 95 §1.1, the known answer
theorem test_compress_empty_message : compress true emptyMessage.w emptyMessage.h =
    #v[0xDA39A3EE, 0x5E6B4B0D, 0x3255BFEF, 0x95601890, 0xAFD80709] := by decide
set_option maxRecDepth 20000 in
-- 95 §1.1, FEED_FORWARD = 0
theorem test_compress_no_feed_forward : compress false emptyMessage.w emptyMessage.h =
    #v[0x72F480ED, 0x6E9D9F84, 0x999AE2F1, 0x852DC41A, 0xEC052519] := by decide

/-! ### The commands -/

-- 43_control R150
theorem test_nop_keeps_done : look State.statusWord (exec .nop { blank with done := true }) = some 0x00000002 := by decide
theorem test_nop_busy : look State.statusWord (exec .nop (pending .rotl)) = some 0x00000025 := by decide
-- 95 §2.7, E18
theorem test_compress_accept : look State.statusWord (exec .compress { blank with done := true }) = some 0x00000001 := by
  decide
set_option maxRecDepth 20000 in
-- 40_compress R105, the example
theorem test_compress_completes : look (fun t => (t.h[0], t.statusWord)) (coreComplete true emptyMessage) =
    some (0xDA39A3EE, 0x00000002) := by decide
-- 41_rotate R131
theorem test_rotl_accept : look State.phase (exec .rotl { blank with opa := 0x80000001, opb := 1 }) =
    some (.busy .rotl) := by decide
theorem test_rotl_completes : look (fun t => (t.res, t.statusWord))
    (coreComplete true { pending .rotl with opa := 0x80000001, opb := 1 }) = some (0x00000003, 0x00000002) := by decide
-- 42_mix R141
theorem test_mix_accept : look State.phase (exec .mix { blank with opi := 19 }) = some (.busy .mix) := by decide
theorem test_mix_completes : look State.res (coreComplete true { pending .mix with
    opi := 19, opa := 0xF0F0F0F0, opb := 0xFF00FF00, opc := 0x0FF00FF0 }) = some 0xFF00FF00 := by decide

/-! ### The window, 95 §2.7 -/

theorem test_E1 : look State.resp (step (State.reset.withSchedule [.read 0x17C 4])) = some (some ⟨.ok, some 0⟩) := by
  decide
theorem test_E2 : look State.resp (step (State.reset.withSchedule [.read 0x180 4])) =
    some (some ⟨.ok, some 0x53484131⟩) := by decide
theorem test_E3 : look State.statusWord (step (blank.withFetchWord 32 2)) = some 0x00000001 := by decide
theorem test_E4 : look State.statusWord (step (blank.withFetchWord 32 7)) = some 0x00000014 := by decide
theorem test_E7 : look State.statusWord (memWrite 0x178 4 0x10 (pending .rotl)) = some 0x00000025 := by decide
theorem test_E8 : look State.statusWord (memWrite 0x17C 4 6 { pending .rotl with err := true, ecode := 2 }) =
    some 0x00000001 := by decide
theorem test_E9 : look (fun t => (t.statusWord, t.resp)) (memWrite 0x171 4 5 blank) =
    some (0x00000034, some ⟨.busError, none⟩) := by decide
theorem test_E10 : ((memRead 0x174 4 blank).statusWord, (memRead 0x174 4 blank).resp) =
    (0x00000034, some ⟨.busError, some 0⟩) := by decide
theorem test_E12 : look State.statusWord (memWrite 0x160 1 0 blank) = some 0x00000034 := by decide
theorem test_E13 : look State.statusWord (memWrite 0x171 4 5 { blank with done := true, err := true, ecode := 1 }) =
    some 0x00000016 := by decide
theorem test_E14a : look State.statusWord (memWrite 0x17C 4 4 { blank with done := true, err := true, ecode := 1 }) =
    some 0x00000002 := by decide
theorem test_E20 : (memRead 0x140 4 emptyMessage).resp = some ⟨.ok, some 0x67452301⟩ := by decide
theorem test_write_last_schedule_word : look (fun t => t.w[79]) (memWrite 0x13C 4 0xFFFFFFFF blank) = some 0xFFFFFFFF := by
  decide
theorem test_reset_runs_command : look State.phase (step (State.reset.withFetchWord 32 1)) = some (.busy .compress) := by
  decide
-- 30_encoding R79
theorem test_pseudo_clear : pseudoCLEAR = [.write 0x17C 4 6] := by decide
theorem test_pseudo_rotl32 : pseudoROTL32 5 1 2 = [.write 0x160 4 5, .write 0x164 4 1, .write 0x178 4 2, .read 0x17C 4,
    .read 0x17C 4, .read 0x17C 4, .read 0x170 4] := by decide

-- 70_reset R197 and R191: a reset during the command leaves ERR and DONE 0
theorem test_check_after_reset : look (fun t => (checkPasses t, checkCompleted t))
    (step ((resetNow (pending .rotl)).withSchedule pseudoCHECK)) = some (true, false) := by decide
-- 70_reset R202: the completion alone, unseen, ends no program
theorem test_unseen_completion_is_no_end :
    (hostRun [true, false] (.start [lineWR .cmd 2]) (blank.withSchedule [lineWR .cmd 2, .complete])).map
      (fun x => (programEnded x.1, x.2.busy)) = some (false, false) := by decide
-- 70_reset R202: another host's read of STATUS does not end this one's program
theorem test_other_host_sees_idle :
    (hostRun [true, false, false] (.start [lineWR .cmd 2])
      (blank.withSchedule [lineWR .cmd 2, .complete, lineRD .status])).map
      (fun x => (programEnded x.1, waitEnds x.2)) = some (false, true) := by decide

/-! ### Cases that meet the hypotheses of the statements -/

theorem witness_DecodeOfEncodeIsTheCommand : Instr.wellFormed .mix = true := by decide

theorem witness_OpcodeMapWords : 4 ≤ 0xF ∧ 0xF ≤ 0xF ∧ decode (BitVec.ofNat 32 0xF) = .error .reservedOpcode ∧
    decode (BitVec.ofNat 32 4) = .error .reservedOpcode := by decide

theorem witness_ReservedWordRaisesIllegalCmd :
    blank.phase = .idle ∧ reservedWord 0x00000004 ∧ reservedWord 0x00000010 ∧ ¬ reservedWord 0x00000003 := by decide

theorem witness_StepRunsTheDecodedCommand :
    (blank.withFetchWord 32 3).schedule = .write 0x178 4 3 :: [] ∧ decode 3 = .ok .mix := by decide

theorem witness_StepPerformsTheNextEvent :
    (blank.withSchedule [.read 0 4]).schedule = .read 0 4 :: [] ∧
    (blank.withSchedule [.write 0 4 1]).schedule = .write 0 4 1 :: [] ∧
    (blank.withSchedule [.complete]).schedule = .complete :: [] ∧
    (blank.withSchedule [.round]).schedule = .round :: [] ∧
    (blank.withSchedule [.reset]).schedule = .reset :: [] ∧ blank.schedule = [] ∧ blank.phase = .idle := by decide

theorem witness_RotlIsTheBarrel :
    (0x20 : Word) &&& 31 = 0 ∧ (0x21 : Word) &&& 31 ≠ 0 ∧ 31 < 32 ∧ (rotl32 0x80000000 0x21).getLsbD 0 = true := by decide

theorem witness_MixFollowsTheBands :
    mix 19 0 0xFFFFFFFF 0x12345678 = 0x12345678 ∧ mix 20 0 0xFFFFFFFF 0x12345678 = 0xEDCBA987 ∧
    mix 39 0 0xFFFFFFFF 0x12345678 = 0xEDCBA987 ∧ mix 40 0 0xFFFFFFFF 0x12345678 = 0x12345678 ∧
    mix 60 0 0xFFFFFFFF 0x12345678 = 0xEDCBA987 ∧ mix 79 0 0xFFFFFFFF 0x12345678 = 0xEDCBA987 ∧
    mix 80 0 0xFFFFFFFF 0x12345678 = 0 ∧ mix (-1) 0 0xFFFFFFFF 0x12345678 = 0 ∧
    (0xF0 : Word).getLsbD 4 = (0x10 : Word).getLsbD 4 := by decide

theorem witness_MixBandEdges :
    choose 0 0xFFFFFFFF 1 ≠ parity 0 0xFFFFFFFF 1 ∧ parity 0 0xFFFFFFFF 1 ≠ majority 0 0xFFFFFFFF 1 := by decide

theorem witness_RoundConstantByBand :
    roundConstant 0 = 0x5A827999 ∧ roundConstant 19 = 0x5A827999 ∧ roundConstant 20 = 0x6ED9EBA1 ∧
    roundConstant 39 = 0x6ED9EBA1 ∧ roundConstant 40 = 0x8F1BBCDC ∧ roundConstant 59 = 0x8F1BBCDC ∧
    roundConstant 60 = 0xCA62C1D6 ∧ roundConstant 79 = 0xCA62C1D6 := by decide

theorem witness_MixerAndConstantSwitchTogether :
    (19 : Fin 80).val / 20 = (0 : Fin 80).val / 20 ∧ (19 : Fin 80).val / 20 ≠ (20 : Fin 80).val / 20 ∧
    (20 : Fin 80).val = (19 : Fin 80).val + 1 := by decide

/-- The states after each round of a COMPRESS of zeros. -/
def zeroRounds (n : Nat) : Work := rounds blank.w ((List.finRange 80).take n) (loadState blank.h)

theorem witness_CompressIsEightyRoundsInOrder :
    zeroRounds 0 = ⟨blank.h[0], blank.h[1], blank.h[2], blank.h[3], blank.h[4]⟩ ∧
    ∀ i : Fin 80, zeroRounds (i.val + 1) = roundOf i (zeroRounds i.val) blank.w[i] := by
  refine ⟨rfl, fun i => ?_⟩
  unfold zeroRounds
  rw [take_succ_finRange i.val i.isLt, rounds_append]
  rfl

theorem witness_AddressMap :
    accessed 0x000 4 = some (.w 0) ∧ accessed 0x13C 4 = some (.w 79) ∧ accessed 0x140 4 = some (.h 0) ∧
    accessed 0x150 4 = some (.h 4) ∧ accessed 0x154 4 = none ∧ accessed 0x15C 4 = none ∧ accessed 0x160 4 = some .opa ∧
    accessed 0x164 4 = some .opb ∧ accessed 0x168 4 = some .opc ∧ accessed 0x16C 4 = some .opi ∧
    accessed 0x170 4 = some .res ∧ accessed 0x174 4 = none ∧ accessed 0x178 4 = some .cmd ∧
    accessed 0x17C 4 = some .status ∧ accessed 0x180 4 = some .id ∧ accessed 0x184 4 = none ∧
    accessed 0x1FC 4 = none := by decide

theorem witness_MemReadByTheMap_bad :
    badPlace 0x000 2 ∧ badPlace 0x002 4 ∧ badPlace 0x154 4 ∧ badPlace 0x15C 4 ∧ badPlace 0x174 4 ∧ badPlace 0x184 4 := by
  decide

theorem witness_MemReadByTheMap :
    ¬ badPlace 0x150 4 ∧ ¬ badPlace 0x160 4 ∧ ¬ badPlace 0x170 4 ∧ ¬ badPlace 0x178 4 ∧ ¬ badPlace 0x180 4 := by decide

theorem witness_BadAccessChangesNothingElse : badPlace 0x1FF 4 ∧ badWrite 0x170 4 ∧ badWrite 0x180 4 ∧ badWrite 0x174 4 ∧
    ¬ badWrite 0x17C 4 := by decide

theorem witness_BusyWriteIsDropped :
    (pending .rotl).busy = true ∧ (∀ off ∈ ([0x000, 0x150, 0x160, 0x16C, 0x178] : List Offset),
      ¬ badWrite off 4 ∧ closedWhileBusy off) ∧ ¬ badPlace 0x17C 4 ∧
    look State.h (coreComplete true (pending .rotl)) ≠ none ∧ look State.h (memWrite 0 4 1 (pending .rotl)) ≠ none := by
  decide

theorem witness_IdleWriteIsReadBack : blank.busy = false ∧ Reg.writeClass (.h 4) = .input ∧ Reg.opa ≠ .h 4 := by decide

theorem witness_AccessesAreIdempotent : (0x17C : Offset).toNat ≠ 0x178 := by decide

theorem witness_HostAddressesReachTheWindow :
    Config.base + 0x178 = Config.base + (0x178 : Offset).toNat ∧ Config.base + 0x200 ≤ Config.base + 0x200 := ⟨rfl, le_rfl⟩

theorem witness_RaiseKeepsTheFirstError : blank.err = false ∧ ({ blank with err := true } : State).err = true := by decide

theorem witness_OneErrorPerAccessByPriority :
    badPlace 0x171 4 ∧ ¬ badPlace 0x178 4 ∧ badWrite 0x170 4 ∧ ¬ badWrite 0x178 4 ∧ closedWhileBusy 0x178 ∧
    (pending .mix).busy = true ∧ blank.busy = false ∧ reservedWord 0x10 ∧ ¬ closedWhileBusy 0x17C ∧ ¬ reservedWord 1 := by
  decide

theorem witness_CoreStepsRaiseNothing :
    look State.err (coreComplete true (pending .mix)) = some false ∧ look State.err (coreRound (pending .compress)) = some false ∧
    (pending .compress).roundCounter.toNat ≤ 80 := by decide

theorem witness_ErrorIsStickyUntilCleared :
    look State.err (step (blank.withSchedule [.read 0x174 4])) = some true ∧
    look State.err (step ({ blank with err := true, ecode := 1 }.withSchedule [.read 0x174 4])) = some true ∧
    look State.err (step ({ blank with err := true, ecode := 1 }.withSchedule [.write 0x17C 4 4])) = some false := by decide

theorem witness_commands : blank.phase = .idle ∧ ∀ op : PendOp, (pending op).busy = true := by
  refine ⟨rfl, fun op => ?_⟩
  cases op <;> decide

theorem witness_CommandFrame : look State.phase (exec .compress blank) = some (.busy .compress) ∧ Reg.opa ≠ .status ∧
    Instr.rotl ≠ .compress := by decide

theorem witness_RoundUsesAndAdvancesTheCounter :
    ({ pending .compress with roundCounter := 79 } : State).roundCounter.toNat = (79 : Fin 80).val ∧
    lastRound.roundCounter.toNat = 80 ∧ (pending .rotl).phase ≠ .busy .compress := ⟨by decide, rfl, by decide⟩

theorem witness_CounterAboveEightyFaults :
    ({ pending .compress with roundCounter := 81 } : State).phase = .busy .compress ∧
    80 < ({ pending .compress with roundCounter := 81 } : State).roundCounter.toNat := by decide

theorem witness_BusyFollowsAcceptanceAndCompletion :
    look State.busy (step (blank.withFetchWord 32 3)) = some true ∧
    look State.busy (step ((pending .rotl).withSchedule [.complete])) = some false ∧
    look State.busy (step ((pending .rotl).withSchedule [.reset])) = some false ∧
    (pending .rotl).schedule = [] ∧ look State.busy (step (pending .rotl)) = some false := by decide

theorem witness_DoneFollowsCompletionAndClear :
    look State.done (step ((pending .rotl).withSchedule [.complete])) = some true ∧
    look State.done (step ({ blank with done := true }.withSchedule [.write 0x17C 4 2])) = some false ∧
    look State.done (step ({ blank with done := true }.withFetchWord 32 1)) = some false := by decide

theorem witness_InputsChangeOnlyByHost :
    look (fun t => t.readReg .opb) (step (blank.withSchedule [.write 0x164 4 7])) = some 7 ∧ blank.readReg .opb ≠ 7 ∧
    Reg.writeClass .opb = .input ∧ ∀ j, Reg.opb ≠ .h j := ⟨by decide, by decide, rfl, by simp⟩

theorem witness_ResultsChangeOnlyByTheirCommands :
    look (fun t => t.h[4]) (step (blank.withSchedule [.write 0x150 4 7])) = some 7 ∧ blank.h[4] ≠ 7 ∧
    look State.res (step ({ pending .rotl with opa := 7 }.withSchedule [.complete])) = some 7 ∧
    (pending .rotl).res ≠ 7 := by decide

theorem witness_ResetAbandonsTheCommand : ((pending .compress).withSchedule [.reset]).schedule = .reset :: [] := rfl

theorem blank_inv : Inv blank :=
  ⟨by decide, by decide, by decide, by decide, fun h => by cases h⟩

theorem pending_compress_inv : Inv (pending .compress) :=
  ⟨by decide, by decide, by decide, by decide, fun _ => rfl⟩

theorem lastRound_inv : Inv lastRound :=
  ⟨fun _ => rfl, by simp [lastRound, pending, blank], by simp [lastRound, pending, blank],
    by simp [lastRound], fun _ => rfl⟩

theorem witness_StepKeepsInvariant : Inv blank ∧ look State.phase (step (blank.withFetchWord 32 1)) = some (.busy .compress) :=
  ⟨blank_inv, by decide⟩

theorem witness_RoundByRoundIsCompress :
    Inv (pending .compress) ∧ (pending .compress).phase = .busy .compress ∧ (pending .compress).schedule = [] ∧
    Inv lastRound ∧ lastRound.phase = .busy .compress ∧ lastRound.roundCounter.toNat = 80 :=
  ⟨pending_compress_inv, rfl, rfl, lastRound_inv, rfl, rfl⟩

theorem witness_RotlAndMixLeftAloneComplete : (pending .rotl).schedule = [] ∧ (pending .rotl).phase = .busy .rotl ∧
    (pending .mix).phase = .busy .mix := by decide

theorem witness_CompressResultIsFixedAtAcceptance :
    blank.phase = .idle ∧ (∀ e ∈ ([.round, .read 0x17C 4, .write 0 4 9] : List Event), e ≠ .reset ∧ e ≠ .complete) ∧
    (blank.withSchedule [.write 0x178 4 1, .round, .read 0x17C 4, .write 0 4 9, .complete]).schedule =
      .write 0x178 4 0x00000001 :: [.round, .read 0x17C 4, .write 0 4 9] ++ .complete :: [] := by decide

theorem witness_HelperResultIsFixedAtAcceptance :
    rotl32 blank.opa blank.opb = 0 ∧ mix blank.opi.toInt blank.opa blank.opb blank.opc = 0 ∧
    (blank.withSchedule [.write 0x178 4 3, .write 0x160 4 9, .complete]).schedule =
      .write 0x178 4 0x00000003 :: [.write 0x160 4 9] ++ .complete :: [] := by decide

theorem witness_WorkingRegistersAreUnobservable :
    sameVisible blank { blank with roundCounter := 5 } ∧ blank ≠ { blank with roundCounter := 5 } ∧
    look State.phase (step blank) = some .idle :=
  ⟨⟨rfl, fun h => by cases h⟩, by decide, by decide⟩

theorem witness_PollingReadsTheFlags :
    (blank.withSchedule [lineRD .status]).schedule = lineRD .status :: [] ∧
    look waitEnds (step ((pending .mix).withSchedule [lineRD .status])) = some false ∧
    look checkPasses (step ({ blank with err := true }.withSchedule [lineRD .status])) = some false ∧
    look checkCompleted (step ({ blank with done := true }.withSchedule [lineRD .status])) = some true := by decide

/-- One host's ROTL with its WAIT, between another host's access and the core's completion. -/
def mixedRun : List Event :=
  [.write 0x178 4 2, .write 0 4 9, .read 0x17C 4, .complete, .read 0x17C 4]

/-- Which events of `mixedRun` are the host's own. -/
def mixedMarks : List Bool := [true, false, true, false, true]

theorem witness_HostProgramEndsOnceIdleIsSeen_mixed :
    mixedMarks.length = mixedRun.length ∧ (blank.withSchedule mixedRun).schedule = mixedRun ++ [] ∧
    mixedMarks[0]? = some true ∧ mixedRun[0]? = some (.write 0x178 4 2) ∧ isCommandWrite (.write 0x178 4 2) :=
  ⟨rfl, rfl, rfl, rfl, 2, by decide, rfl⟩

theorem witness_HostProgramEndsOnceIdleIsSeen_mixed_inv : Inv (blank.withSchedule mixedRun) :=
  ⟨by decide, by decide, by decide, by decide, fun h => by cases h⟩

-- the read that shows BUSY = 1 ends nothing, the one after the completion does
theorem witness_HostProgramEndsOnceIdleIsSeen_mixed_end :
    (hostRun mixedMarks (.start [.write 0x178 4 2, .read 0x17C 4, .read 0x17C 4]) (blank.withSchedule mixedRun)).map
      (fun x => programEnded x.1) = some true ∧
    (hostRun (mixedMarks.take 4) (.start [.write 0x178 4 2, .read 0x17C 4]) (blank.withSchedule mixedRun)).map
      (fun x => (x.1.left, programEnded x.1)) = some ([], false) := by decide

theorem witness_HostProgramEndsOnceIdleIsSeen_commandless :
    (∀ (i : Nat) (e : Event), ([true] : List Bool)[i]? = some true →
      ([.write 0x178 4 4] : List Event)[i]? = some e → ¬ isCommandWrite e) := by
  rintro (_ | i) e h he ⟨v, hv, rfl⟩
  · cases he
    revert hv
    decide
  · cases h

theorem witness_HostProgressOverOneStep :
    ((pending .mix).withSchedule [.read 0x17C 4]).schedule = .read 0x17C 4 :: [] ∧
    (blank.withSchedule [.read 0x17C 4]).busy = false ∧
    look State.busy (step ((pending .mix).withSchedule [.read 0x17C 4])) = some true ∧
    look State.busy (step (blank.withSchedule [.write 0x178 4 3])) = some true ∧
    (⟨[.read 0 4], true⟩ : HostProgress).left.head? ≠ some (.read 0x17C 4) ∧ blank.schedule = [] := by decide

theorem witness_HostProgressOverOneStep_commands :
    isCommandWrite (.write 0x178 4 0) ∧ isCommandWrite (.write 0x178 4 3) ∧ ¬ isCommandWrite (.write 0x178 4 4) :=
  ⟨⟨0, by decide, rfl⟩, ⟨3, by decide, rfl⟩, by rintro ⟨v, hv, h⟩; cases h; revert hv; decide⟩

theorem witness_HostProgramEndsOnceIdleIsSeen_read :
    (hostRun [true] ⟨[lineRD .status], true⟩ (blank.withSchedule [lineRD .status])).map (fun x => programEnded x.1) =
      some true := by decide

theorem witness_HostProgramEndsOnceIdleIsSeen_no_command :
    ((pending .mix).withSchedule [lineRD (.h 0), .complete]).schedule = lineRD (.h 0) :: [.complete] := rfl

theorem witness_HostProgramEndsOnceIdleIsSeen_rotl : Inv blank ∧ blank.phase = .idle ∧ blank.err = false ∧
    (blank.withSchedule ([lineWR .opa 5, lineWR .opb 1, lineWR .cmd (encode .rotl)] ++ pseudoWAIT 2 ++
      .complete :: (pseudoWAIT 1 ++ pseudoCHECK ++ [lineRD .res] ++ [.reset]))).schedule =
      [lineWR .opa 5, lineWR .opb 1, lineWR .cmd (encode .rotl)] ++ pseudoWAIT 2 ++
      .complete :: (pseudoWAIT 1 ++ pseudoCHECK ++ [lineRD .res] ++ [.reset]) :=
  ⟨blank_inv, rfl, rfl, rfl⟩

end Sys2Proof.Tests
end

section
/-! Proofs about the events of a step: what heads the schedule is performed, and an idle block's core does nothing. -/

namespace Sys2Proof.Machine

/-- A step of this hardware with something scheduled performs it on the state with that event taken off. -/
theorem step_of_schedule_cons {s : State} {e : Event} {rest : List Event} (h : s.schedule = e :: rest) :
    step s = perform true e { s with schedule := rest } :=
  stepWith_cons Config.feedForward s e rest h

/-- A round of an idle block is not enabled (log 3). -/
theorem coreRound_of_idle {s : State} (h : s.phase = .idle) : coreRound s = .next s := by
  rcases coreRound_cases s with ⟨_, hr⟩ | ⟨hp, _⟩
  · exact hr
  · simp [h] at hp

/-- A completion of an idle block is not enabled (log 3). -/
theorem coreComplete_of_idle (ff : Bool) {s : State} (h : s.phase = .idle) : coreComplete ff s = .next s := by
  simp [coreComplete, h]

/-- The core of an idle block, left to itself, does nothing (log 8). -/
theorem coreClock_of_idle (ff : Bool) {s : State} (h : s.phase = .idle) : coreClock ff s = .next s := by
  rcases coreClock_cases ff s with ⟨_, _, hc⟩ | ⟨_, hc⟩
  · rw [hc, coreRound_of_idle h]
  · rw [hc, coreComplete_of_idle ff h]

/-- An idle block with nothing scheduled steps to itself (log 8). -/
theorem step_of_idle {s : State} (hs : s.schedule = []) (hp : s.phase = .idle) : step s = .next s :=
  (stepWith_nil Config.feedForward s hs).trans (coreClock_of_idle Config.feedForward hp)

/-- Settles O7: the clauses about a scheduled event are `perform` at that event, the others say that an idle block's
core does nothing. -/
theorem stepPerformsTheNextEvent : Obligations.StepPerformsTheNextEvent := by
  intro s rest
  refine ⟨?read, ?write, ?complete, ?round, ?reset, step_of_idle, ?notEnabled⟩
  case read => exact fun _ _ h => step_of_schedule_cons h
  case write => exact fun _ _ _ h => step_of_schedule_cons h
  case complete => exact fun h => step_of_schedule_cons h
  case round => exact fun h => step_of_schedule_cons h
  case reset => exact fun h => step_of_schedule_cons h
  case notEnabled => exact fun h => ⟨coreRound_of_idle h, coreComplete_of_idle true h⟩

end Sys2Proof.Machine
end

section
/-! Proofs: what one step can do to the data registers, to the error flags, to PHASE and DONE, and to the working
registers, one law for each, all drawn from `Effect`. -/

namespace Sys2Proof.Machine

/-! The data registers as one value, so that one equation says that all of them are kept -/

/-- The registers of the window that hold a word: W, H, the operands and RES (10_state R20). -/
structure DataRegs where
  w   : Vector Word 80
  h   : Vector Word 5
  opa : Word
  opb : Word
  opc : Word
  opi : Word
  res : Word

/-- The data registers of a state. -/
def State.data (s : State) : DataRegs := ⟨s.w, s.h, s.opa, s.opb, s.opc, s.opi, s.res⟩

@[simp] theorem respond_data (st : BusStatus) (d : Option Word) (s : State) : (respond st d s).data = s.data := rfl
@[simp] theorem accept_data (op : PendOp) (s : State) : (accept op s).data = s.data := rfl
@[simp] theorem loadWork_data (s : State) : (loadWork s).data = s.data := rfl
@[simp] theorem advanceRound_data (i : Fin 80) (s : State) : (advanceRound i s).data = s.data := rfl
@[simp] theorem raise_data (e : ErrorKind) (s : State) : (raise e s).data = s.data := by simp [State.data]
@[simp] theorem badAccess_data (d : Option Word) (s : State) : (badAccess d s).data = s.data := by simp [State.data]
@[simp] theorem writeStatus_data (v : Word) (s : State) : (writeStatus v s).data = s.data := by simp [State.data]

/-- The data registers are the same exactly when each of them is. -/
theorem data_eq_iff {s t : State} : t.data = s.data ↔ t.w = s.w ∧ t.h = s.h ∧ t.opa = s.opa ∧ t.opb = s.opb ∧
    t.opc = s.opc ∧ t.opi = s.opi ∧ t.res = s.res := by
  simp only [State.data, DataRegs.mk.injEq]

/-- A window word other than STATUS is read from the data registers alone. -/
theorem readReg_of_data_eq {s t : State} {r : Reg} (hd : t.data = s.data) (hr : r ≠ .status) :
    t.readReg r = s.readReg r := by
  obtain ⟨hw, hh, ha, hb, hc, hi, hres⟩ := data_eq_iff.1 hd
  cases r with
  | status => exact absurd rfl hr
  | _ => simp [State.readReg, *]

/-- A stored word is read back from its register (10_state R26). -/
theorem readReg_storeReg_self {r : Reg} (hc : r.writeClass = .input) (s : State) (v : Word) :
    (s.storeReg r v).readReg r = v := by
  cases r with
  | w j => simp [State.storeReg, State.readReg]
  | h j => simp [State.storeReg, State.readReg]
  | opa => rfl
  | opb => rfl
  | opc => rfl
  | opi => rfl
  | _ => cases hc

/-- A store changes no other register (10_state R26). -/
theorem readReg_storeReg_ne {r r' : Reg} (hne : r' ≠ r) (s : State) (v : Word) :
    (s.storeReg r v).readReg r' = s.readReg r' := by
  cases r with
  | w j =>
    cases r' with
    | w k =>
      have hjk : (j : Nat) ≠ k := fun h => hne (by rw [Fin.ext h])
      exact Vector.getElem_set_ne j.isLt k.isLt hjk
    | _ => rfl
  | h j =>
    cases r' with
    | h k =>
      have hjk : (j : Nat) ≠ k := fun h => hne (by rw [Fin.ext h])
      exact Vector.getElem_set_ne j.isLt k.isLt hjk
    | _ => rfl
  | res => rfl
  | cmd => rfl
  | status => rfl
  | id => rfl
  | _ =>
    cases r' with
    | w => rfl
    | h => rfl
    | status => rfl
    | _ => simp_all [State.storeReg, State.readReg]

/-- A completion that writes H changes no other data register. -/
theorem readReg_finishState_ne {r : Reg} (hr : r ≠ .status) (hh : ∀ j, r ≠ .h j) (v : Vector Word 5) (s : State) :
    (finishState v s).readReg r = s.readReg r := by
  cases r with
  | status => exact absurd rfl hr
  | h j => exact absurd rfl (hh j)
  | _ => rfl

/-- A completion that writes RES changes no other data register. -/
theorem readReg_finishRes_ne {r : Reg} (hr : r ≠ .status) (hres : r ≠ .res) (v : Word) (s : State) :
    (finishRes v s).readReg r = s.readReg r := by
  cases r with
  | status => exact absurd rfl hr
  | res => exact absurd rfl hres
  | _ => rfl

/-! A BAD_ACCESS on the error flags -/

@[simp] theorem badAccess_err (d : Option Word) (s : State) : (badAccess d s).err = true := raise_err _ s

theorem badAccess_ecode (d : Option Word) (s : State) :
    (badAccess d s).ecode = if s.err then s.ecode else ErrorKind.badAccess.code := raise_ecode _ s

/-! Laws of one step -/

section
variable {ff : Bool} {e : Option Event} {s t : State}

/-- No step touches what is scheduled after its event. -/
theorem effect_schedule (h : Effect ff e s t) : t.schedule = s.schedule := by
  cases h with
  | _ => simp

/-- A step changes a window word other than STATUS only by reset, by a host write to it while idle, or by the completion
of the command whose result it is (10_state R21 to R25). -/
theorem effect_readReg {r : Reg} (h : Effect ff e s t) (hr : r ≠ .status) (hne : t.readReg r ≠ s.readReg r) :
    e = some .reset ∨
    (s.busy = false ∧ r.writeClass = .input ∧ e = some (.write r.offset 4 (t.readReg r))) ∨
    ((∃ j, r = .h j) ∧ s.phase = .busy .compress ∧ t.phase = .idle) ∨
    (r = .res ∧ (s.phase = .busy .rotl ∨ s.phase = .busy .mix) ∧ t.phase = .idle) := by
  cases h with
  | compress he hp hi =>
    by_cases hh : ∃ j, r = .h j
    · exact .inr (.inr (.inl ⟨hh, hp, rfl⟩))
    · exact absurd (readReg_finishState_ne hr (not_exists.1 hh) _ s) hne
  | rotl he hp =>
    by_cases hres : r = .res
    · exact .inr (.inr (.inr ⟨hres, .inl hp, rfl⟩))
    · exact absurd (readReg_finishRes_ne hr hres _ s) hne
  | mix he hp =>
    by_cases hres : r = .res
    · exact .inr (.inr (.inr ⟨hres, .inr hp, rfl⟩))
    · exact absurd (readReg_finishRes_ne hr hres _ s) hne
  | reset he => exact .inl he
  | store r' v he hb hc =>
    rw [readReg_of_data_eq (respond_data _ _ _) hr] at hne ⊢
    by_cases hrr : r = r'
    · subst hrr
      exact .inr (.inl ⟨hb, hc, by rw [readReg_storeReg_self hc, he]⟩)
    · exact absurd (readReg_storeReg_ne hrr s v) hne
  | _ => exact absurd (readReg_of_data_eq (by simp) hr) hne

/-- While a command is pending, a host access or a round changes neither PHASE nor a data register (40_compress R107,
60_exceptions R162). -/
theorem effect_keeps_pending {ev : Event} {op : PendOp} (h : Effect ff (some ev) s t) (hp : s.phase = .busy op)
    (hreset : ev ≠ .reset) (hcomplete : ev ≠ .complete) : t.phase = .busy op ∧ t.data = s.data := by
  have hb : s.busy = true := (busy_iff s).2 (by simp [hp])
  cases h with
  | still => exact ⟨hp, rfl⟩
  | compress he => simp [hcomplete] at he
  | rotl he => simp [hcomplete] at he
  | mix he => simp [hcomplete] at he
  | reset he => simp [hreset] at he
  | store r v he hidle => simp [hb] at hidle
  | illegal v he hidle => simp [hb] at hidle
  | nop v he hidle => simp [hb] at hidle
  | acceptCompress v he hidle => simp [hb] at hidle
  | acceptRotl v he hidle => simp [hb] at hidle
  | acceptMix v he hidle => simp [hb] at hidle
  | _ => simp [hp]

/-- Everything a step can do to ERR and ECODE: nothing, record one of the three errors that are raised, or clear both
(10_state R34, 60_exceptions R164, R165, R171). -/
theorem effect_error_cases (h : Effect ff e s t) :
    (t.err = s.err ∧ t.ecode = s.ecode) ∨
    (∃ k : ErrorKind, k ≠ .invalidInputSize ∧ t.err = true ∧ t.ecode = if s.err then s.ecode else k.code) ∨
    (t.err = false ∧ t.ecode = 0 ∧
      (e = some .reset ∨ ∃ v : Word, v.getLsbD 2 = true ∧ e = some (.write Reg.status.offset 4 v))) := by
  cases h with
  | reset he => exact .inr (.inr ⟨rfl, rfl, .inl he⟩)
  | badRead off n he => exact .inr (.inl ⟨.badAccess, by simp, badAccess_err _ s, badAccess_ecode _ s⟩)
  | badWrite off n v he hw => exact .inr (.inl ⟨.badAccess, by simp, badAccess_err _ s, badAccess_ecode _ s⟩)
  | status v he =>
    cases hv : v.getLsbD 2 with
    | true => exact .inr (.inr ⟨by simp [hv], by simp [hv], .inr ⟨v, hv, he⟩⟩)
    | false => exact .inl (by simp only [respond_err, respond_ecode, writeStatus_err, writeStatus_ecode, hv]; trivial)
  | dropped r v he hb hc => exact .inr (.inl ⟨.busyViolation, by simp, raise_err _ _, raise_ecode _ _⟩)
  | store r v he hb hc => exact .inl (by simp)
  | illegal v he hb x hd => exact .inr (.inl ⟨.illegalCmd, by simp, raise_err _ _, raise_ecode _ _⟩)
  | _ => exact .inl ⟨rfl, rfl⟩

/-- Everything a step can do to BUSY and DONE: nothing, an acceptance, a completion, a reset, or a STATUS write with bit
1 set (10_state R31, R32). -/
theorem effect_flag_cases (h : Effect ff e s t) :
    (t.busy = s.busy ∧ t.done = s.done) ∨
    (s.busy = false ∧ t.busy = true ∧ t.done = false ∧
      ∃ v i, e = some (.write Reg.cmd.offset 4 v) ∧ decode v = .ok i ∧ i ≠ .nop) ∨
    (s.busy = true ∧ t.busy = false ∧ t.done = true ∧ (e = none ∨ e = some .complete)) ∨
    (t.busy = false ∧ t.done = false ∧ e = some .reset) ∨
    (t.busy = s.busy ∧ t.done = false ∧
      ∃ v : Word, v.getLsbD 1 = true ∧ e = some (.write Reg.status.offset 4 v)) := by
  cases h with
  | compress he hp hi => exact .inr (.inr (.inl ⟨by simp [State.busy, hp], by simp, by simp, he⟩))
  | rotl he hp => exact .inr (.inr (.inl ⟨by simp [State.busy, hp], by simp, by simp, he⟩))
  | mix he hp => exact .inr (.inr (.inl ⟨by simp [State.busy, hp], by simp, by simp, he⟩))
  | reset he => exact .inr (.inr (.inr (.inl ⟨by simp, by simp, he⟩)))
  | status v he =>
    cases hv : v.getLsbD 1 with
    | true => exact .inr (.inr (.inr (.inr ⟨by simp, by simp [hv], v, hv, he⟩)))
    | false => exact .inl (by simp only [respond_busy, respond_done, writeStatus_busy, writeStatus_done, hv]; trivial)
  | acceptCompress v he hb hd => exact .inr (.inl ⟨hb, by simp, by simp, v, _, he, hd, by simp⟩)
  | acceptRotl v he hb hd => exact .inr (.inl ⟨hb, by simp, by simp, v, _, he, hd, by simp⟩)
  | acceptMix v he hb hd => exact .inr (.inl ⟨hb, by simp, by simp, v, _, he, hd, by simp⟩)
  | _ => exact .inl (by simp)

/-- I stays at most 80 (10_state R36). -/
theorem effect_counter_le (h : Effect ff e s t) (hs : s.roundCounter.toNat ≤ 80) : t.roundCounter.toNat ≤ 80 := by
  cases h with
  | round he hp hi =>
    rw [advanceRound_roundCounter, BitVec.toNat_add]
    exact le_trans (Nat.mod_le _ _) hi
  | compress he hp hi => exact drawCounter_le _
  | reset he => exact drawCounter_le _
  | acceptCompress v he hb hd => exact Nat.zero_le _
  | _ => simpa using hs

end

/-! The working registers during a COMPRESS -/

/-- While a COMPRESS is pending, I is at most 80 and the working registers hold the rounds before I, from H
(10_state R35, R36; 40_compress R105). -/
def RoundsHeld (s : State) : Prop :=
  s.phase = .busy .compress → s.roundCounter.toNat ≤ 80 ∧ s.work = roundsDone s

theorem roundsHeld_of_phase_ne {s : State} (hp : s.phase ≠ .busy .compress) : RoundsHeld s := fun h => absurd h hp

/-- The rounds held depend on PHASE, the data registers, the working registers and I alone. -/
theorem RoundsHeld.congr {s t : State} (h : RoundsHeld s) (hp : t.phase = s.phase) (hd : t.data = s.data)
    (hw : t.work = s.work) (hi : t.roundCounter = s.roundCounter) : RoundsHeld t := by
  obtain ⟨hwv, hhv, _⟩ := data_eq_iff.1 hd
  unfold RoundsHeld roundsDone
  rw [hp, hw, hi, hwv, hhv]
  exact h

/-- COMPRESS's acceptance starts with no round done. -/
theorem roundsHeld_loadWork (s : State) : RoundsHeld (loadWork s) := fun _ => ⟨Nat.zero_le _, rfl⟩

/-- I + 1 does not wrap while rounds are left (10_state R36). -/
theorem toNat_roundCounter_succ {s : State} (hi : s.roundCounter.toNat < 80) :
    (s.roundCounter + 1).toNat = s.roundCounter.toNat + 1 := by
  rw [BitVec.toNat_add]
  exact Nat.mod_eq_of_lt (by simp; omega)

/-- A round takes the working registers from the rounds before I to those before I + 1. -/
theorem roundsHeld_advanceRound {s : State} (hi : s.roundCounter.toNat < 80) (h : RoundsHeld s) :
    RoundsHeld (advanceRound ⟨s.roundCounter.toNat, hi⟩ s) := by
  intro hp
  obtain ⟨_, hw⟩ := h hp
  have hsucc := toNat_roundCounter_succ hi
  refine ⟨?_, ?_⟩
  · rw [advanceRound_roundCounter, hsucc]
    exact hi
  · simp only [roundsDone, advanceRound_work, advanceRound_w, advanceRound_h, advanceRound_roundCounter, hsucc]
    rw [take_succ_finRange _ hi, rounds_append, hw]
    rfl

/-- Every step keeps the rounds held. -/
theorem effect_keeps_roundsHeld {ff : Bool} {e : Option Event} {s t : State} (h : Effect ff e s t)
    (hs : RoundsHeld s) : RoundsHeld t := by
  cases h with
  | round he hp hi => exact roundsHeld_advanceRound hi hs
  | compress he hp hi => exact roundsHeld_of_phase_ne (by simp)
  | rotl he hp => exact roundsHeld_of_phase_ne (by simp)
  | mix he hp => exact roundsHeld_of_phase_ne (by simp)
  | reset he => exact roundsHeld_of_phase_ne (by simp)
  | store r v he hb hc => exact roundsHeld_of_phase_ne (by simp [(not_busy_iff s).1 hb])
  | acceptCompress v he hb hd => exact roundsHeld_loadWork _
  | acceptRotl v he hb hd => exact roundsHeld_of_phase_ne (by simp)
  | acceptMix v he hb hd => exact roundsHeld_of_phase_ne (by simp)
  | _ => exact hs.congr (by simp) (by simp) (by simp) (by simp)

/-- While the rounds are held, the completion of a COMPRESS writes compress(W, H) into H (40_compress R104, R105): the
rounds done and those still to come are the 80 rounds. -/
theorem coreComplete_compress {s : State} (hp : s.phase = .busy .compress) (h : RoundsHeld s) (ff : Bool) :
    coreComplete ff s = .next (releaseWork (finishState (compress ff s.w s.h) s)) := by
  obtain ⟨hi, hw⟩ := h hp
  simp only [coreComplete, hp, completeCompress, if_pos hi, remainingRounds_eq s hw, compress]

/-! The invariant -/

theorem Inv.roundsHeld {s : State} (h : Inv s) : RoundsHeld s := fun hp => ⟨h.counterBound, h.workingRounds hp⟩

/-- The errors that are raised have the codes 1, 2 and 3 (60_exceptions R160, R164). -/
theorem code_of_raised {k : ErrorKind} (hk : k ≠ .invalidInputSize) : k.code = 1 ∨ k.code = 2 ∨ k.code = 3 := by
  cases k with
  | invalidInputSize => exact absurd rfl hk
  | _ => simp [ErrorKind.code]

/-- DONE stays 0 while a command is pending. -/
theorem effect_doneOnlyIdle {ff : Bool} {e : Option Event} {s t : State} (h : Effect ff e s t)
    (hs : s.busy = true → s.done = false) : t.busy = true → t.done = false := by
  intro hb
  rcases effect_flag_cases h with ⟨hbusy, hdone⟩ | ⟨_, _, hdone, _⟩ | ⟨_, hidle, _⟩ | ⟨_, hdone, _⟩ | ⟨_, hdone, _⟩
  · rw [hdone]
    exact hs (hbusy ▸ hb)
  · exact hdone
  · simp [hb] at hidle
  · exact hdone
  · exact hdone

/-- ECODE stays the code of an error that is raised exactly when ERR is set. -/
theorem effect_codeRaised {ff : Bool} {e : Option Event} {s t : State} (h : Effect ff e s t)
    (hiff : s.err = false ↔ s.ecode = 0) (hle : s.ecode.toNat ≤ 3) :
    (t.err = false ↔ t.ecode = 0) ∧ t.ecode.toNat ≤ 3 := by
  rcases effect_error_cases h with ⟨herr, hcode⟩ | ⟨k, hk, herr, hcode⟩ | ⟨herr, hcode, _⟩
  · rw [herr, hcode]
    exact ⟨hiff, hle⟩
  · cases hs : s.err with
    | true => simp_all
    | false => rcases code_of_raised hk with hc | hc | hc <;> simp_all
  · simp [herr, hcode]

/-- A step keeps the invariant, whatever event it performs. -/
theorem effect_keeps_inv {ff : Bool} {e : Option Event} {s t : State} (h : Effect ff e s t) (hs : Inv s) : Inv t where
  doneOnlyIdle := effect_doneOnlyIdle h hs.doneOnlyIdle
  codeIffError := (effect_codeRaised h hs.codeIffError hs.codeRaised).1
  codeRaised := (effect_codeRaised h hs.codeIffError hs.codeRaised).2
  counterBound := effect_counter_le h hs.counterBound
  workingRounds hp := (effect_keeps_roundsHeld h hs.roundsHeld hp).2

/-- What is scheduled is no part of the invariant. -/
theorem Inv.withSchedule {s : State} (h : Inv s) (es : List Event) : Inv (s.withSchedule es) :=
  ⟨h.doneOnlyIdle, h.codeIffError, h.codeRaised, h.counterBound, h.workingRounds⟩

/-- Settles O45: each part of the invariant is kept by the law of one step about it. -/
theorem stepKeepsInvariant : Obligations.StepKeepsInvariant :=
  fun _ _ hs h => effect_keeps_inv (effect_of_step h) (hs.withSchedule _)

/-- Settles O44: a reset leaves an idle block with no error and a drawn I of at most 80. -/
theorem resetMeetsInvariant : Obligations.ResetMeetsInvariant := fun _ =>
  { doneOnlyIdle := fun _ => rfl
    codeIffError := by simp
    codeRaised := by simp
    counterBound := drawCounter_le _
    workingRounds := fun hp => by simp at hp }

/-- Settles O47: under the invariant the rounds are held; at I = 80 all of them are done. -/
theorem roundByRoundIsCompress : Obligations.RoundByRoundIsCompress := by
  intro ff s hinv hp
  refine ⟨⟨_, coreComplete_compress hp hinv.roundsHeld ff, rfl, rfl, rfl⟩, fun h80 => ?_⟩
  have hlast : remainingRounds s = s.work := by
    rw [remainingRounds, h80, List.drop_eq_nil_of_le (by simp), rounds_nil]
  rw [compress, ← remainingRounds_eq s (hinv.workingRounds hp), hlast]

end Sys2Proof.Machine
end

section
/-! Proofs: outside a COMPRESS nothing observes the working registers and I (10_state R35, R36). -/

namespace Sys2Proof.Machine

/-- The state with other working registers and another I. -/
def State.withHidden (x : Work) (i : BitVec 7) (s : State) : State := { s with work := x, roundCounter := i }

/-- States equal but for the hidden registers: the second is the first with other hidden registers. -/
theorem sameVisible_iff {s t : State} :
    sameVisible s t ↔ (∃ x i, t = s.withHidden x i) ∧ (s.phase = .busy .compress → t = s) := by
  constructor
  · rintro ⟨h, hc⟩
    exact ⟨⟨t.work, t.roundCounter, h⟩, hc⟩
  · rintro ⟨⟨x, i, rfl⟩, hc⟩
    exact ⟨rfl, hc⟩

theorem sameVisible_refl (s : State) : sameVisible s s := ⟨rfl, fun _ => rfl⟩

theorem sameVisible.phase_eq {s t : State} (h : sameVisible s t) : t.phase = s.phase := by rw [h.1]

theorem sameVisible.busy_eq {s t : State} (h : sameVisible s t) : t.busy = s.busy := busy_congr _ _ h.phase_eq

/-- An operation that neither reads nor writes the hidden registers and accepts no COMPRESS keeps two states equal but
for them. -/
theorem sameVisible.map {s t : State} (h : sameVisible s t) (f : State → State)
    (hf : ∀ x i, f (s.withHidden x i) = (f s).withHidden x i)
    (hp : (f s).phase = .busy .compress → s.phase = .busy .compress) : sameVisible (f s) (f t) := by
  obtain ⟨⟨x, i, rfl⟩, hc⟩ := sameVisible_iff.1 h
  exact sameVisible_iff.2 ⟨⟨x, i, hf x i⟩, fun h => congrArg f (hc (hp h))⟩

/-! The operations of a step on two such states -/

theorem raise_withHidden (e : ErrorKind) (x : Work) (i : BitVec 7) (s : State) :
    raise e (s.withHidden x i) = (raise e s).withHidden x i := by
  simp only [raise_eq]
  rfl

theorem writeStatus_withHidden (v : Word) (x : Work) (i : BitVec 7) (s : State) :
    writeStatus v (s.withHidden x i) = (writeStatus v s).withHidden x i := by
  simp only [writeStatus_eq]
  rfl

theorem storeReg_withHidden (r : Reg) (v : Word) (x : Work) (i : BitVec 7) (s : State) :
    (s.withHidden x i).storeReg r v = (s.storeReg r v).withHidden x i := by
  cases r <;> rfl

theorem readReg_withHidden (r : Reg) (x : Work) (i : BitVec 7) (s : State) :
    (s.withHidden x i).readReg r = s.readReg r := by
  cases r <;> rfl

theorem badAccess_withHidden (d : Option Word) (x : Work) (i : BitVec 7) (s : State) :
    badAccess d (s.withHidden x i) = (badAccess d s).withHidden x i := by
  rw [badAccess, raise_withHidden]
  rfl

section
variable {s t : State}

theorem sameVisible.withSchedule (h : sameVisible s t) (es : List Event) :
    sameVisible (s.withSchedule es) (t.withSchedule es) :=
  h.map (State.withSchedule es) (fun _ _ => rfl) id

theorem sameVisible.respond (h : sameVisible s t) (st : BusStatus) (d : Option Word) :
    sameVisible (respond st d s) (respond st d t) :=
  h.map (Machine.respond st d) (fun _ _ => rfl) id

theorem sameVisible.raise (h : sameVisible s t) (e : ErrorKind) : sameVisible (raise e s) (raise e t) :=
  h.map (Machine.raise e) (fun x i => raise_withHidden e x i s) (by simp)

theorem sameVisible.badAccess (h : sameVisible s t) (d : Option Word) : sameVisible (badAccess d s) (badAccess d t) :=
  h.map (Machine.badAccess d) (fun x i => badAccess_withHidden d x i s) (by simp)

theorem sameVisible.writeStatus (h : sameVisible s t) (v : Word) : sameVisible (writeStatus v s) (writeStatus v t) :=
  h.map (Machine.writeStatus v) (fun x i => writeStatus_withHidden v x i s) (by simp)

theorem sameVisible.storeReg (h : sameVisible s t) (r : Reg) (v : Word) :
    sameVisible (s.storeReg r v) (t.storeReg r v) :=
  h.map (fun u => u.storeReg r v) (fun x i => storeReg_withHidden r v x i s) (by simp)

/-- A read gives both the same data: no register of the window is a hidden one. -/
theorem sameVisible.memRead (h : sameVisible s t) (off : Offset) (size : Nat) :
    sameVisible (memRead off size s) (memRead off size t) := by
  unfold Machine.memRead
  cases accessed off size with
  | none => exact h.badAccess _
  | some r =>
    refine h.map (fun u => Machine.respond .ok (some (u.readReg r)) u) (fun x i => ?_) id
    rw [readReg_withHidden]
    rfl

/-- Reset draws the same words for both. -/
theorem sameVisible.resetNow (h : sameVisible s t) : resetNow t = resetNow s := by
  obtain ⟨⟨x, i, rfl⟩, _⟩ := sameVisible_iff.1 h
  rfl

/-- COMPRESS's acceptance loads the hidden registers of both from the same H. -/
theorem sameVisible.loadWork_accept (h : sameVisible s t) :
    loadWork (accept .compress t) = loadWork (accept .compress s) := by
  obtain ⟨⟨x, i, rfl⟩, _⟩ := sameVisible_iff.1 h
  rfl

theorem sameVisible.accept (h : sameVisible s t) {op : PendOp} (hop : op ≠ .compress) :
    sameVisible (accept op s) (accept op t) :=
  h.map (Machine.accept op) (fun _ _ => rfl) (fun hp => absurd (Phase.busy.inj hp) hop)

theorem sameVisible.completeRotl (h : sameVisible s t) : sameVisible (completeRotl s) (completeRotl t) :=
  h.map Machine.completeRotl (fun _ _ => rfl) (fun hp => by cases hp)

theorem sameVisible.completeMix (h : sameVisible s t) : sameVisible (completeMix s) (completeMix t) :=
  h.map Machine.completeMix (fun _ _ => rfl) (fun hp => by cases hp)

end

/-! The events of a step -/

/-- Where the first outcome is a next state, so is the second, and the two are equal but for the hidden registers. -/
def SameNext (o o' : Host.Outcome State Fault Refusal) : Prop :=
  ∀ s', o = .next s' → ∃ t', o' = .next t' ∧ sameVisible s' t'

theorem sameNext_refl (o : Host.Outcome State Fault Refusal) : SameNext o o := fun s' h => ⟨s', h, sameVisible_refl s'⟩

theorem sameVisible.next {s t : State} (h : sameVisible s t) : SameNext (.next s) (.next t) := by
  intro s' hs
  obtain rfl := next_inj.1 hs
  exact ⟨t, rfl, h⟩

section
variable {s t : State}

theorem exec_nop_of_idle (hb : s.busy = false) : exec .nop s = .next s := by simp [exec, execNop, whenIdle, hb]

theorem exec_compress_of_idle (hb : s.busy = false) : exec .compress s = .next (loadWork (accept .compress s)) := by
  simp [exec, execCompress, whenIdle, hb]

theorem exec_rotl_of_idle (hb : s.busy = false) : exec .rotl s = .next (accept .rotl s) := by
  simp [exec, execRotl, whenIdle, hb]

theorem exec_mix_of_idle (hb : s.busy = false) : exec .mix s = .next (accept .mix s) := by
  simp [exec, execMix, whenIdle, hb]

theorem sameNext_exec (h : sameVisible s t) (i : Instr) : SameNext (exec i s) (exec i t) := by
  cases hb : s.busy with
  | true =>
    rw [exec_busy i s hb, exec_busy i t (h.busy_eq.trans hb)]
    exact (h.raise _).next
  | false =>
    have hbt : t.busy = false := h.busy_eq.trans hb
    cases i with
    | nop =>
      rw [exec_nop_of_idle hb, exec_nop_of_idle hbt]
      exact h.next
    | compress =>
      rw [exec_compress_of_idle hb, exec_compress_of_idle hbt, h.loadWork_accept]
      exact sameNext_refl _
    | rotl =>
      rw [exec_rotl_of_idle hb, exec_rotl_of_idle hbt]
      exact (h.accept (by simp)).next
    | mix =>
      rw [exec_mix_of_idle hb, exec_mix_of_idle hbt]
      exact (h.accept (by simp)).next

theorem sameNext_issue (h : sameVisible s t) (v : Word) : SameNext (issue v s) (issue v t) := by
  unfold issue
  cases decode v with
  | error x => exact (h.raise _).next
  | ok i => exact sameNext_exec h i

theorem sameNext_writeReg (h : sameVisible s t) (r : Reg) (v : Word) : SameNext (writeReg r v s) (writeReg r v t) := by
  unfold writeReg
  rw [h.busy_eq]
  cases r.writeClass with
  | readOnly => exact (h.badAccess _).next
  | writeOneToClear => exact ((h.writeStatus v).respond _ _).next
  | input =>
    cases s.busy with
    | true => exact ((h.raise _).respond _ _).next
    | false => exact ((h.storeReg r v).respond _ _).next
  | command =>
    cases s.busy with
    | true => exact ((h.raise _).respond _ _).next
    | false => exact sameNext_issue (h.respond _ _) v

theorem sameNext_memWrite (h : sameVisible s t) (off : Offset) (size : Nat) (v : Word) :
    SameNext (memWrite off size v s) (memWrite off size v t) := by
  unfold memWrite
  cases accessed off size with
  | none => exact (h.badAccess _).next
  | some r => exact sameNext_writeReg h r v

/-- A round is not enabled where no COMPRESS is pending (log 3). -/
theorem coreRound_of_not_compress (hp : s.phase ≠ .busy .compress) : coreRound s = .next s := by
  rcases coreRound_cases s with ⟨_, hr⟩ | ⟨hc, _⟩
  · exact hr
  · exact absurd hc hp

/-- A round and the completion read the hidden registers of a pending COMPRESS alone, where the two states are one. -/
theorem sameNext_coreRound (h : sameVisible s t) : SameNext (coreRound s) (coreRound t) := by
  by_cases hp : s.phase = .busy .compress
  · rw [h.2 hp]
    exact sameNext_refl _
  · have hpt : t.phase ≠ .busy .compress := h.phase_eq ▸ hp
    rw [coreRound_of_not_compress hp, coreRound_of_not_compress hpt]
    exact h.next

theorem sameNext_coreComplete (h : sameVisible s t) (ff : Bool) : SameNext (coreComplete ff s) (coreComplete ff t) := by
  unfold coreComplete
  rw [h.phase_eq]
  cases hp : s.phase with
  | idle => exact h.next
  | busy op =>
    cases op with
    | compress =>
      rw [h.2 hp]
      exact sameNext_refl _
    | rotl => exact h.completeRotl.next
    | mix => exact h.completeMix.next

theorem sameNext_coreClock (h : sameVisible s t) (ff : Bool) : SameNext (coreClock ff s) (coreClock ff t) := by
  by_cases hp : s.phase = .busy .compress
  · rw [h.2 hp]
    exact sameNext_refl _
  · have hpt : t.phase ≠ .busy .compress := h.phase_eq ▸ hp
    simpa [coreClock, hp, hpt] using sameNext_coreComplete h ff

theorem sameNext_perform (h : sameVisible s t) (ff : Bool) (e : Event) :
    SameNext (perform ff e s) (perform ff e t) := by
  cases e with
  | read off size => exact (h.memRead off size).next
  | write off size v => exact sameNext_memWrite h off size v
  | round => exact sameNext_coreRound h
  | complete => exact sameNext_coreComplete h ff
  | reset =>
    rw [perform, perform, h.resetNow]
    exact sameNext_refl _

theorem sameNext_stepWith (h : sameVisible s t) (ff : Bool) : SameNext (stepWith ff s) (stepWith ff t) := by
  have hsched : t.schedule = s.schedule := by rw [h.1]
  cases hs : s.schedule with
  | nil =>
    rw [stepWith_nil ff s hs, stepWith_nil ff t (hsched.trans hs)]
    exact sameNext_coreClock h ff
  | cons e rest =>
    rw [stepWith_cons ff s e rest hs, stepWith_cons ff t e rest (hsched.trans hs)]
    exact sameNext_perform (h.withSchedule rest) ff e

end

/-- Settles O52: every operation of a step keeps two states equal but for the hidden registers, or, for COMPRESS's
acceptance and reset, makes them one. -/
theorem workingRegistersAreUnobservable : Obligations.WorkingRegistersAreUnobservable :=
  fun _ _ h => sameNext_stepWith h Config.feedForward

end Sys2Proof.Machine
end

section
/-! Proofs: the accesses to CMD, STATUS and ID, the frame of the commands, the core's steps, and what each step may
change. -/

namespace Sys2Proof.Machine

/-! STATUS and ID -/

/-- A BAD_ACCESS as one record update (60_exceptions R161). -/
theorem badAccess_eq (d : Option Word) (s : State) :
    badAccess d s = { s with err := true, ecode := if s.err then s.ecode else 3, resp := some ⟨.busError, d⟩ } := by
  rw [badAccess, raise_eq]
  rfl

/-- A 4-byte write to STATUS, in either phase (10_state R30). -/
theorem memWrite_status (v : Word) (s : State) :
    memWrite Reg.status.offset 4 v s = .next (respond .ok none (writeStatus v s)) := by
  rw [memWrite_offset]
  rfl

/-- Settles O23: each bit of STATUS by `statusWord_getLsbD`, the write by the one record update it is. -/
theorem statusLayoutAndClear : Obligations.StatusLayoutAndClear := by
  refine ⟨by decide, fun s v => ⟨?busy, ?done, ?err, ?zero, ?ecode, ?high, ?write⟩⟩
  case busy => exact (statusWord_getLsbD s 0).trans (by simp)
  case done => exact (statusWord_getLsbD s 1).trans (by simp)
  case err => exact (statusWord_getLsbD s 2).trans (by simp)
  case zero => exact (statusWord_getLsbD s 3).trans (by simp)
  case ecode =>
    apply BitVec.eq_of_getLsbD_eq
    intro k hk
    have h1 : ¬ 4 + k = 1 := by omega
    have h2 : ¬ 4 + k = 2 := by omega
    rw [BitVec.getLsbD_extractLsb', statusWord_getLsbD]
    simp [hk, h1, h2]
  case high =>
    apply BitVec.eq_of_getLsbD_eq
    intro k hk
    have hcode : s.ecode.getLsbD (8 + k - 4) = false := BitVec.getLsbD_of_ge _ _ (by omega)
    rw [BitVec.getLsbD_extractLsb', statusWord_getLsbD, hcode]
    simp
    omega
  case write => exact (memWrite_status v s).trans (by rw [writeStatus_eq]; rfl)

/-- Settles O24: ID reads its constant and is read-only. -/
theorem identificationRegister : Obligations.IdentificationRegister := fun s v =>
  ⟨memRead_offset .id s, (memWrite_offset .id v s).trans (congrArg _ (badAccess_eq none s))⟩

/-! A command and its frame -/

/-- Everything `exec` can do: the error while busy, and while idle nothing for NOP and the acceptance of any other
command. -/
theorem exec_cases (i : Instr) (s : State) :
    (s.busy = true ∧ exec i s = .next (raise .busyViolation s)) ∨
    (s.busy = false ∧ i = .nop ∧ exec i s = .next s) ∨
    (s.busy = false ∧ i = .compress ∧ exec i s = .next (loadWork (accept .compress s))) ∨
    (s.busy = false ∧ (i = .rotl ∨ i = .mix) ∧ ∃ op, exec i s = .next (accept op s)) := by
  cases hb : s.busy with
  | true => exact .inl ⟨rfl, exec_busy i s hb⟩
  | false =>
    cases i with
    | nop => exact .inr (.inl ⟨rfl, rfl, exec_nop_of_idle hb⟩)
    | compress => exact .inr (.inr (.inl ⟨rfl, rfl, exec_compress_of_idle hb⟩))
    | rotl => exact .inr (.inr (.inr ⟨rfl, .inl rfl, _, exec_rotl_of_idle hb⟩))
    | mix => exact .inr (.inr (.inr ⟨rfl, .inr rfl, _, exec_mix_of_idle hb⟩))

/-- While idle, `exec` of a command other than NOP leaves it pending (10_state R39). -/
theorem exec_sets_busy {i : Instr} {s t : State} (hi : i ≠ .nop) (hb : s.busy = false) (h : exec i s = .next t) :
    t.busy = true := by
  rcases exec_cases i s with ⟨hbusy, _⟩ | ⟨_, hnop, _⟩ | ⟨_, _, hc⟩ | ⟨_, _, op, ho⟩
  · simp [hb] at hbusy
  · exact absurd hnop hi
  · rw [← next_inj.1 (hc.symm.trans h)]
    simp
  · rw [← next_inj.1 (ho.symm.trans h)]
    simp

/-- Settles O35, by the four things `exec` can do. -/
theorem commandFrame : Obligations.CommandFrame := by
  intro i s t h
  rcases exec_cases i s with ⟨hb, he⟩ | ⟨hb, hi, he⟩ | ⟨hb, hi, he⟩ | ⟨hb, hi, op, he⟩ <;>
    obtain rfl := next_inj.1 (he.symm.trans h)
  · refine ⟨fun r hr => readReg_of_data_eq (by simp) hr, fun hidle => ?_, fun _ => by simp, by simp⟩
    exact absurd hidle ((busy_iff s).1 hb)
  · exact ⟨fun _ _ => rfl, fun _ => ⟨rfl, rfl⟩, fun _ => ⟨rfl, rfl⟩, rfl, rfl, rfl⟩
  · exact ⟨fun r hr => readReg_of_data_eq (by simp) hr, fun _ => ⟨rfl, rfl⟩, fun hne => absurd hi hne, rfl, rfl, rfl⟩
  · exact ⟨fun r hr => readReg_of_data_eq (by simp) hr, fun _ => ⟨rfl, rfl⟩, fun _ => ⟨rfl, rfl⟩, rfl, rfl, rfl⟩

/-- The response of an access and the error it records are apart. -/
theorem respond_raise (st : BusStatus) (d : Option Word) (e : ErrorKind) (s : State) :
    respond st d (raise e s) = raise e (respond st d s) := by
  simp only [raise_eq]
  rfl

/-- A 4-byte write to CMD of a command's word is `exec` of the command, in either phase (30_encoding R75). -/
theorem memWrite_command {v : Word} {i : Instr} (hd : decode v = .ok i) (s : State) :
    memWrite Reg.cmd.offset 4 v s = exec i (respond .ok none s) := by
  rw [memWrite_offset]
  cases hb : s.busy with
  | true => rw [exec_busy i (respond .ok none s) hb, ← respond_raise]; simp [writeReg, Reg.writeClass, hb]
  | false => simp [writeReg, Reg.writeClass, hb, issue, hd]

/-- A step whose event writes a command is `exec` of that command. -/
theorem step_commandWrite {s : State} {v : Word} {i : Instr} {rest : List Event}
    (hs : s.schedule = .write Reg.cmd.offset 4 v :: rest) (hd : decode v = .ok i) :
    step s = exec i (respond .ok none (s.withSchedule rest)) :=
  (step_of_schedule_cons hs).trans (memWrite_command hd _)

/-- Every command's word fits the opcode table and decodes to the command (30_encoding R74, R77). -/
theorem decode_tableWord_encode (i : Instr) :
    decode (BitVec.ofNat 32 (tableWord 32 (encode i).toNat)) = .ok i ∧
      decodeTableWord 32 (encode i).toNat = some i := by
  cases i <;> decide

/-- Settles O6: the command placed is the event at the head of the schedule. -/
theorem placedCommandRunsNext : Obligations.PlacedCommandRunsNext := by
  intro s i
  obtain ⟨hd, ht⟩ := decode_tableWord_encode i
  exact ⟨ht, step_commandWrite (s := s.withFetchWord 32 (encode i).toNat) (rest := s.schedule) rfl hd⟩

/-! The core's steps -/

/-- Settles O36: a round is enabled with a COMPRESS pending and I below 80 alone. -/
theorem roundUsesAndAdvancesTheCounter : Obligations.RoundUsesAndAdvancesTheCounter := by
  refine fun s => ⟨fun hp i hi => ?_, fun h80 => ?_, coreRound_of_not_compress⟩
  · have hlt : s.roundCounter.toNat < 80 := hi ▸ i.isLt
    have hr : coreRound s = .next (advanceRound i s) := by
      have hidx : (⟨s.roundCounter.toNat, hlt⟩ : Fin 80) = i := Fin.ext hi
      simp [coreRound, hp, compressRound, hlt, hidx]
    refine ⟨_, hr, ?_, rfl, rfl⟩
    rw [advanceRound_roundCounter, toNat_roundCounter_succ hlt, hi]
  · by_cases hp : s.phase = .busy .compress
    · simp [coreRound, hp, compressRound, h80]
    · exact coreRound_of_not_compress hp

/-- Settles O37: neither core step of a COMPRESS has a branch above 80 but the fault. -/
theorem counterAboveEightyFaults : Obligations.CounterAboveEightyFaults := by
  intro ff s hp hi
  have hlt : ¬ s.roundCounter.toNat < 80 := by omega
  have hne : s.roundCounter.toNat ≠ 80 := by omega
  have hle : ¬ s.roundCounter.toNat ≤ 80 := by omega
  exact ⟨by simp [coreRound, hp, compressRound, hlt, hne], by simp [coreComplete, hp, completeCompress, hle]⟩

/-- The completion of a command that is pending, when it answers a next state, leaves the block idle with DONE 1
(10_state R40). -/
theorem coreComplete_flags {ff : Bool} {s t : State} (h : coreComplete ff s = .next t) :
    t.phase = .idle ∧ (s.busy = true → t.done = true) := by
  rcases coreComplete_cases ff s with ⟨hp, hc⟩ | ⟨_, _, hc⟩ | ⟨_, _, hc⟩ | ⟨_, hc⟩ | ⟨_, hc⟩ <;> rw [hc] at h
  · obtain rfl := next_inj.1 h
    exact ⟨hp, fun hb => absurd hp ((busy_iff _).1 hb)⟩
  · obtain rfl := next_inj.1 h
    exact ⟨rfl, fun _ => rfl⟩
  · cases h
  · obtain rfl := next_inj.1 h
    exact ⟨rfl, fun _ => rfl⟩
  · obtain rfl := next_inj.1 h
    exact ⟨rfl, fun _ => rfl⟩

/-- A round leaves PHASE as it is. -/
theorem coreRound_phase {s t : State} (h : coreRound s = .next t) : t.phase = s.phase := by
  rcases coreRound_cases s with ⟨_, hr⟩ | ⟨_, hr⟩
  · rw [← next_inj.1 (hr.symm.trans h)]
  · rw [hr] at h
    rcases compressRound_cases s with ⟨_, hc⟩ | ⟨_, hc⟩ | ⟨_, hc⟩ <;> rw [hc] at h
    · rw [← next_inj.1 h, advanceRound_phase]
    · rw [← next_inj.1 h]
    · cases h

/-- With nothing scheduled and no COMPRESS pending, the step is the completion (log 8). -/
theorem step_of_not_compress {s : State} (hs : s.schedule = []) (hp : s.phase ≠ .busy .compress) :
    step s = coreComplete Config.feedForward s := by
  rw [step, stepWith_nil _ s hs, coreClock, if_neg fun h => hp h.1]

/-- Settles O49: the core left alone completes a ROTL or MIX. -/
theorem rotlAndMixLeftAloneComplete : Obligations.RotlAndMixLeftAloneComplete := by
  refine fun s hs => ⟨fun hp => ?_, fun hp => ?_⟩
  · rw [step_of_not_compress hs (by simp [hp]), coreComplete, hp]
    rfl
  · rw [step_of_not_compress hs (by simp [hp]), coreComplete, hp]
    rfl

/-! What each step may change -/

/-- Settles O29, by what a step can do to ERR and ECODE. -/
theorem errorIsStickyUntilCleared : Obligations.ErrorIsStickyUntilCleared := by
  intro s t h
  rcases effect_error_cases (effect_of_step h) with ⟨herr, hcode⟩ | ⟨k, hk, herr, hcode⟩ | ⟨herr, hcode, hev⟩
  · simp only [withSchedule_err, withSchedule_ecode] at herr hcode
    exact ⟨by simp_all, fun _ _ => hcode, by simp_all⟩
  · simp only [withSchedule_err, withSchedule_ecode] at hcode
    refine ⟨fun hs _ => ?_, fun hs _ => by simp [hcode, hs], by simp [herr]⟩
    simpa [hcode, hs] using code_of_raised hk
  · refine ⟨by simp [herr], by simp [herr], fun _ _ => ⟨hcode, ?_⟩⟩
    rcases hev with hev | ⟨v, hv, hev⟩
    · obtain ⟨rest, hrest⟩ := List.head?_eq_some_iff.1 hev
      exact ⟨rest, .inl hrest⟩
    · obtain ⟨rest, hrest⟩ := List.head?_eq_some_iff.1 hev
      exact ⟨rest, .inr ⟨v, hv, hrest⟩⟩

/-- Settles O40: of the four causes a register can change by, two are of H and RES alone. -/
theorem inputsChangeOnlyByHost : Obligations.InputsChangeOnlyByHost := by
  intro s t r h hh hc hne
  have hr : r ≠ .status := by rintro rfl; cases hc
  rcases effect_readReg (effect_of_step h) hr hne with hev | ⟨hb, _, hev⟩ | ⟨⟨j, hj⟩, _⟩ | ⟨hres, _⟩
  · obtain ⟨rest, hrest⟩ := List.head?_eq_some_iff.1 hev
    exact ⟨rest, .inl hrest⟩
  · obtain ⟨rest, hrest⟩ := List.head?_eq_some_iff.1 hev
    exact ⟨rest, .inr ⟨hb, hrest⟩⟩
  · exact absurd hj (hh j)
  · simp [hres, Reg.writeClass] at hc

/-- Settles O41, by the causes a register can change by. -/
theorem resultsChangeOnlyByTheirCommands : Obligations.ResultsChangeOnlyByTheirCommands := by
  intro s t h hreset
  have hnot : s.schedule.head? ≠ some .reset := fun hev => by
    obtain ⟨rest, hrest⟩ := List.head?_eq_some_iff.1 hev
    exact hreset rest hrest
  refine ⟨fun j hne => ?_, fun hne => ?_⟩
  · rcases effect_readReg (r := .h j) (effect_of_step h) (by simp) hne with
      hev | ⟨hb, _, hev⟩ | ⟨_, hp, ht⟩ | ⟨hres, _⟩
    · exact absurd hev hnot
    · exact .inr ⟨hb, List.head?_eq_some_iff.1 hev⟩
    · exact .inl ⟨hp, ht⟩
    · cases hres
  · rcases effect_readReg (r := .res) (effect_of_step h) (by simp) hne with
      hev | ⟨_, hc, _⟩ | ⟨⟨j, hj⟩, _⟩ | ⟨_, hp, ht⟩
    · exact absurd hev hnot
    · cases hc
    · cases hj
    · exact ⟨hp, ht⟩

/-- After a scheduled completion or reset the block is idle (10_state R31). -/
theorem idle_of_complete_or_reset {s t : State} {rest : List Event} (h : step s = .next t)
    (hs : s.schedule = .complete :: rest ∨ s.schedule = .reset :: rest) : t.busy = false := by
  rcases hs with hs | hs <;> rw [step_of_schedule_cons hs] at h
  · exact (not_busy_iff t).2 (coreComplete_flags h).1
  · rw [← next_inj.1 h, resetNow_busy]

/-- With nothing scheduled, a step that clears BUSY is the pending command's completion (log 8). -/
theorem completion_of_busy_cleared {s t : State} (h : step s = .next t) (hs : s.schedule = [])
    (hb : s.busy = true) (ht : t.busy = false) : coreComplete true s = .next t ∧ t.done = true := by
  have hclock : coreClock true s = .next t := (stepWith_nil true s hs).symm.trans h
  rcases coreClock_cases true s with ⟨_, _, hc⟩ | ⟨_, hc⟩ <;> rw [hc] at hclock
  · have hkept : t.busy = s.busy := busy_congr _ _ (coreRound_phase hclock)
    simp [hb, ht] at hkept
  · exact ⟨hclock, (coreComplete_flags hclock).2 hb⟩

/-- Settles O38, by what a step can do to BUSY, and by what a command write, a completion and a reset give. -/
theorem busyFollowsAcceptanceAndCompletion : Obligations.BusyFollowsAcceptanceAndCompletion := by
  refine fun s t h => ⟨fun hb => ⟨fun ht => ?rises, ?accepted⟩, fun rest hs => idle_of_complete_or_reset h hs,
    fun hb ht => ?falls, ⟨fun hb => ?pending, ?busy⟩⟩
  case rises =>
    rcases effect_flag_cases (effect_of_step h) with ⟨hk, _⟩ | ⟨_, _, _, v, i, hev, hd, hi⟩ | ⟨hb', _⟩ | ⟨ht', _⟩ |
      ⟨hk, _⟩
    · simp [hb, ht] at hk
    · obtain ⟨rest, hrest⟩ := List.head?_eq_some_iff.1 hev
      exact ⟨v, i, rest, hrest, hd, hi⟩
    · simp [hb] at hb'
    · simp [ht] at ht'
    · simp [hb, ht] at hk
  case accepted =>
    rintro ⟨v, i, rest, hs, hd, hi⟩
    exact exec_sets_busy (s := respond .ok none (s.withSchedule rest)) hi hb ((step_commandWrite hs hd).symm.trans h)
  case falls =>
    rcases effect_flag_cases (effect_of_step h) with ⟨hk, _⟩ | ⟨hb', _⟩ | ⟨_, _, _, hev | hev⟩ | ⟨_, _, hev⟩ |
      ⟨hk, _⟩
    · simp [hb, ht] at hk
    · simp [hb] at hb'
    · have hs : s.schedule = [] := List.head?_eq_none_iff.1 hev
      exact .inl ⟨hs, completion_of_busy_cleared h hs hb ht⟩
    · obtain ⟨rest, hrest⟩ := List.head?_eq_some_iff.1 hev
      exact .inr ⟨rest, .inl hrest⟩
    · obtain ⟨rest, hrest⟩ := List.head?_eq_some_iff.1 hev
      exact .inr ⟨rest, .inr hrest⟩
    · simp [hb, ht] at hk
  case pending =>
    obtain ⟨op, hop⟩ := busy_cases s hb
    exact ⟨op, hop, fun op' hop' => Phase.busy.inj (hop'.symm.trans hop)⟩
  case busy =>
    rintro ⟨op, hop, _⟩
    exact (busy_iff s).2 (by simp [hop])

/-- Settles O39, by what a step can do to DONE, and by what a STATUS write and a reset give. -/
theorem doneFollowsCompletionAndClear : Obligations.DoneFollowsCompletionAndClear := by
  intro s t h
  refine ⟨fun hb ht hnot => ?completes, fun hs ht => ?sets, fun hb ht => ?accepts, fun rest hs => ?cleared,
    fun hs ht => ?clears⟩
  case cleared =>
    rcases hs with ⟨v, hv, hs⟩ | hs <;> rw [step_of_schedule_cons hs] at h
    · rw [← next_inj.1 ((memWrite_status v _).symm.trans h)]
      simp [hv]
    · rw [← next_inj.1 h, resetNow_done]
  case completes =>
    rcases effect_flag_cases (effect_of_step h) with ⟨hk, _⟩ | ⟨hb', _⟩ | ⟨_, _, hd, _⟩ | ⟨_, _, hev⟩ | ⟨hk, _⟩
    · simp [hb, ht] at hk
    · simp [hb] at hb'
    · exact hd
    · obtain ⟨rest, hrest⟩ := List.head?_eq_some_iff.1 hev
      exact absurd hrest (hnot rest)
    · simp [hb, ht] at hk
  case sets =>
    rcases effect_flag_cases (effect_of_step h) with ⟨_, hd⟩ | ⟨_, _, hd, _⟩ | ⟨hb, hb', _⟩ | ⟨_, hd, _⟩ | ⟨_, hd, _⟩
    · simp [hs, ht] at hd
    · simp [ht] at hd
    · exact ⟨hb, hb'⟩
    · simp [ht] at hd
    · simp [ht] at hd
  case accepts =>
    rcases effect_flag_cases (effect_of_step h) with ⟨hk, _⟩ | ⟨_, _, hd, _⟩ | ⟨_, ht', _⟩ | ⟨_, hd, _⟩ | ⟨_, hd, _⟩
    · simp [hb, ht] at hk
    · exact hd
    · simp [ht] at ht'
    · exact hd
    · exact hd
  case clears =>
    rcases effect_flag_cases (effect_of_step h) with ⟨_, hd⟩ | ⟨hb, _, _, v, i, hev, hdec, hi⟩ | ⟨_, _, hd, _⟩ |
      ⟨_, _, hev⟩ | ⟨_, _, v, hv, hev⟩
    · simp [hs, ht] at hd
    · obtain ⟨rest, hrest⟩ := List.head?_eq_some_iff.1 hev
      exact ⟨rest, .inr (.inr ⟨v, i, hrest, hdec, hi, hb⟩)⟩
    · simp [ht] at hd
    · obtain ⟨rest, hrest⟩ := List.head?_eq_some_iff.1 hev
      exact ⟨rest, .inl hrest⟩
    · obtain ⟨rest, hrest⟩ := List.head?_eq_some_iff.1 hev
      exact ⟨rest, .inr (.inl ⟨v, hv, hrest⟩)⟩

end Sys2Proof.Machine
end

section
/-! Proofs: whole runs from the acceptance of a command to its completion (10_state R39, R40). -/

namespace Sys2Proof.Machine

/-- While the rounds are held, every event has a next state: the one fault needs I above 80. -/
theorem exists_next_of_roundsHeld {s : State} (h : RoundsHeld s) (e : Event) (ff : Bool) :
    ∃ t, perform ff e s = .next t := by
  cases e with
  | read off n => exact ⟨_, rfl⟩
  | write off n v =>
    rcases memWrite_cases off n v s with ⟨_, hw⟩ | ⟨_, _, hw⟩ | ⟨_, _, _, _, _, hw⟩ | ⟨_, _, _, _, _, hw⟩ |
      ⟨hb, _, _, hw⟩
    · exact ⟨_, hw⟩
    · exact ⟨_, hw⟩
    · exact ⟨_, hw⟩
    · exact ⟨_, hw⟩
    · rcases issue_cases v (respond .ok none s) hb with ⟨_, hi⟩ | ⟨_, hi⟩ | ⟨_, hi⟩ | ⟨_, hi⟩ | ⟨_, hi⟩ <;>
        exact ⟨_, hw.trans hi⟩
  | round =>
    rcases coreRound_cases s with ⟨_, hr⟩ | ⟨hp, hr⟩
    · exact ⟨_, hr⟩
    · rcases compressRound_cases s with ⟨_, hc⟩ | ⟨_, hc⟩ | ⟨hgt, _⟩
      · exact ⟨_, hr.trans hc⟩
      · exact ⟨_, hr.trans hc⟩
      · exact absurd (h hp).1 (by omega)
  | complete =>
    rcases coreComplete_cases ff s with ⟨_, hc⟩ | ⟨_, _, hc⟩ | ⟨hp, hgt, _⟩ | ⟨_, hc⟩ | ⟨_, hc⟩
    · exact ⟨_, hc⟩
    · exact ⟨_, hc⟩
    · exact absurd (h hp).1 (by omega)
    · exact ⟨_, hc⟩
    · exact ⟨_, hc⟩
  | reset => exact ⟨_, rfl⟩

/-- One step of a pending command on an event that is neither a reset nor a completion goes on, and keeps the command
pending, the data registers and the rounds held. -/
theorem step_while_pending {s : State} {op : PendOp} {e : Event} {rest : List Event} (hp : s.phase = .busy op)
    (hr : RoundsHeld s) (hs : s.schedule = e :: rest) (he : e ≠ .reset ∧ e ≠ .complete) :
    ∃ t, step s = .next t ∧ t.phase = .busy op ∧ RoundsHeld t ∧ t.data = s.data ∧ t.schedule = rest := by
  have hr' : RoundsHeld (s.withSchedule rest) := hr
  obtain ⟨t, ht⟩ := exists_next_of_roundsHeld hr' e Config.feedForward
  have hstep : step s = .next t := (step_of_schedule_cons hs).trans ht
  have heff : Effect Config.feedForward (some e) (s.withSchedule rest) t := by
    have heff := effect_of_step hstep
    rwa [hs] at heff
  obtain ⟨htp, htd⟩ := effect_keeps_pending heff hp he.1 he.2
  exact ⟨t, hstep, htp, effect_keeps_roundsHeld heff hr', htd, effect_schedule heff⟩

/-- A pending command outlasts any events but reset and completion, with the data registers as they were. -/
theorem run_while_pending {op : PendOp} {es rest : List Event} (hes : ∀ e ∈ es, e ≠ .reset ∧ e ≠ .complete) {s : State}
    (hp : s.phase = .busy op) (hr : RoundsHeld s) (hs : s.schedule = es ++ rest) :
    ∃ t, core.run es.length s = .next t ∧ t.phase = .busy op ∧ RoundsHeld t ∧ t.data = s.data ∧ t.schedule = rest := by
  induction es generalizing s with
  | nil => exact ⟨s, rfl, hp, hr, rfl, hs⟩
  | cons e es ih =>
    obtain ⟨u, hu, hup, hur, hud, hus⟩ := step_while_pending hp hr hs (hes e List.mem_cons_self)
    obtain ⟨t, ht, htp, htr, htd, hts⟩ := ih (fun x hx => hes x (List.mem_cons_of_mem e hx)) hup hur hus
    exact ⟨t, (run_succ_of_next hu).trans ht, htp, htr, htd.trans hud, hts⟩

/-- From the step that leaves a command pending, through any events but reset and completion: the completion that comes
then finds the data registers as they were at acceptance. -/
theorem run_to_completion {s u : State} {op : PendOp} {es rest : List Event} (hu : step s = .next u)
    (hes : ∀ e ∈ es, e ≠ .reset ∧ e ≠ .complete) (hp : u.phase = .busy op) (hr : RoundsHeld u)
    (hs : u.schedule = es ++ .complete :: rest) :
    ∃ x t, x.phase = .busy op ∧ RoundsHeld x ∧ x.data = u.data ∧ x.schedule = rest ∧
      coreComplete true x = .next t ∧ core.run (es.length + 2) s = .next t := by
  obtain ⟨y, hrun, hyp, hyr, hyd, hys⟩ := run_while_pending hes hp hr hs
  have hxr : RoundsHeld (y.withSchedule rest) := hyr
  obtain ⟨t, ht⟩ := exists_next_of_roundsHeld hxr .complete true
  refine ⟨y.withSchedule rest, t, hyp, hxr, hyd, rfl, ht, ?_⟩
  calc core.run (es.length + 2) s = core.run (es.length + 1) u := run_succ_of_next hu
    _ = core.run 1 y := run_add hrun
    _ = .next t := run_one_of_next ((step_of_schedule_cons hys).trans ht)

/-- Settles O50: the acceptance of COMPRESS holds the rounds, so its completion writes compress of the W and H at
acceptance. -/
theorem compressResultIsFixedAtAcceptance : Obligations.CompressResultIsFixedAtAcceptance := by
  intro s es rest hp hes hs
  have hb : s.busy = false := (not_busy_iff s).2 hp
  have hacc := (step_commandWrite (i := .compress) hs (by decide)).trans (exec_compress_of_idle hb)
  obtain ⟨x, t, hxp, hxr, hxd, hxs, hxt, hrun⟩ := run_to_completion hacc hes rfl (roundsHeld_loadWork _) rfl
  obtain ⟨hw, hh, ha, hb, hc, hi, hres⟩ := data_eq_iff.1 hxd
  obtain rfl := next_inj.1 ((coreComplete_compress hxp hxr true).symm.trans hxt)
  refine ⟨_, hrun, ?_, rfl, rfl, hxs, hw, ha, hb, hc, hi, hres⟩
  simp [hw, hh]

/-- The run of a command that completes with `r` in RES, whenever it completes with the data registers of `s`. -/
theorem run_of_helper {s : State} {op : PendOp} {r : Word} {es rest : List Event} (hop : op ≠ .compress)
    (hacc : step s = .next (accept op (respond .ok none (s.withSchedule (es ++ .complete :: rest)))))
    (hes : ∀ e ∈ es, e ≠ .reset ∧ e ≠ .complete)
    (hcomplete : ∀ x : State, x.phase = .busy op → x.data = s.data → coreComplete true x = .next (finishRes r x)) :
    ∃ t : State, core.run (es.length + 2) s = .next t ∧ t.res = r ∧ t.phase = .idle ∧ t.done = true ∧
      t.schedule = rest ∧ t.w = s.w ∧ t.h = s.h ∧ t.opa = s.opa ∧ t.opb = s.opb ∧ t.opc = s.opc ∧ t.opi = s.opi := by
  have hr : RoundsHeld (accept op (respond .ok none (s.withSchedule (es ++ .complete :: rest)))) :=
    roundsHeld_of_phase_ne fun hp => hop (Phase.busy.inj hp)
  obtain ⟨x, t, hxp, _, hxd, hxs, hxt, hrun⟩ := run_to_completion hacc hes rfl hr rfl
  obtain ⟨hw, hh, ha, hb, hc, hi, _⟩ := data_eq_iff.1 hxd
  obtain rfl := next_inj.1 ((hcomplete x hxp hxd).symm.trans hxt)
  exact ⟨_, hrun, rfl, rfl, rfl, hxs, hw, hh, ha, hb, hc, hi⟩

/-- Settles O51: ROTL and MIX complete with their function of the operand registers, which are those at acceptance. -/
theorem helperResultIsFixedAtAcceptance : Obligations.HelperResultIsFixedAtAcceptance := by
  intro s es rest v r hp hes hv hs
  have hb : s.busy = false := (not_busy_iff s).2 hp
  rcases hv with ⟨rfl, rfl⟩ | ⟨rfl, rfl⟩
  · have hacc := (step_commandWrite (i := .rotl) hs (by decide)).trans (exec_rotl_of_idle hb)
    refine run_of_helper (by simp) hacc hes fun x hxp hxd => ?_
    obtain ⟨_, _, ha, hb, _⟩ := data_eq_iff.1 hxd
    rw [coreComplete, hxp, ← ha, ← hb]
    rfl
  · have hacc := (step_commandWrite (i := .mix) hs (by decide)).trans (exec_mix_of_idle hb)
    refine run_of_helper (by simp) hacc hes fun x hxp hxd => ?_
    obtain ⟨_, _, ha, hb, hc, hi, _⟩ := data_eq_iff.1 hxd
    rw [coreComplete, hxp, ← ha, ← hb, ← hc, ← hi]
    rfl

end Sys2Proof.Machine
end

section
/-! Proofs: the core left alone with a COMPRESS pending takes its rounds and then the completion (log 8). -/

namespace Sys2Proof.Machine

/-- With nothing scheduled and rounds left, the step of a pending COMPRESS is round I (log 8). -/
theorem step_round_of_alone {s : State} (hs : s.schedule = []) (hp : s.phase = .busy .compress)
    (hi : s.roundCounter.toNat < 80) : step s = .next (advanceRound ⟨s.roundCounter.toNat, hi⟩ s) := by
  rw [step, stepWith_nil _ s hs, coreClock, if_pos ⟨hp, hi⟩, coreRound, hp]
  exact dif_pos hi

/-- With nothing scheduled and no round left, the step of a pending COMPRESS is its completion (log 8). -/
theorem step_complete_of_alone {s : State} (hs : s.schedule = []) (hp : s.phase = .busy .compress)
    (hr : RoundsHeld s) (hi : s.roundCounter.toNat = 80) :
    step s = .next (releaseWork (finishState (compress true s.w s.h) s)) := by
  rw [step, stepWith_nil _ s hs, coreClock, if_neg (by omega)]
  exact coreComplete_compress hp hr true

/-- While rounds are left, a pending COMPRESS left alone stays pending and keeps the data registers; each step is one
round more. -/
theorem run_rounds_alone {k : Nat} {s : State} (hs : s.schedule = []) (hp : s.phase = .busy .compress)
    (hr : RoundsHeld s) (hk : s.roundCounter.toNat + k ≤ 80) :
    ∃ u, core.run k s = .next u ∧ u.schedule = [] ∧ u.phase = .busy .compress ∧ RoundsHeld u ∧ u.data = s.data ∧
      u.roundCounter.toNat = s.roundCounter.toNat + k := by
  induction k generalizing s with
  | zero => exact ⟨s, rfl, hs, hp, hr, rfl, rfl⟩
  | succ k ih =>
    have hi : s.roundCounter.toNat < 80 := by omega
    have hsucc : (advanceRound ⟨_, hi⟩ s).roundCounter.toNat = s.roundCounter.toNat + 1 := toNat_roundCounter_succ hi
    obtain ⟨u, hrun, hus, hup, hur, hud, hui⟩ :=
      ih (s := advanceRound ⟨_, hi⟩ s) hs hp (roundsHeld_advanceRound hi hr) (by omega)
    exact ⟨u, (run_succ_of_next (step_round_of_alone hs hp hi)).trans hrun, hus, hup, hur, hud, by omega⟩

/-- Settles O48: the 80 - I rounds left, and one step more for the completion. -/
theorem compressLeftAloneCompletes : Obligations.CompressLeftAloneCompletes := by
  intro s hinv hp hs
  have hle := hinv.counterBound
  refine ⟨fun k hk => ?_, ?_⟩
  · obtain ⟨u, hrun, _, hup, _, hud, _⟩ := run_rounds_alone hs hp hinv.roundsHeld (k := k) (by omega)
    obtain ⟨_, hh, _⟩ := data_eq_iff.1 hud
    exact ⟨u, hrun, hup, hh⟩
  · obtain ⟨u, hrun, hus, hup, hur, hud, hui⟩ :=
      run_rounds_alone hs hp hinv.roundsHeld (k := 80 - s.roundCounter.toNat) (by omega)
    obtain ⟨hw, hh, _⟩ := data_eq_iff.1 hud
    have hlast := run_one_of_next (step_complete_of_alone hus hup hur (by omega))
    have hsteps : 81 - s.roundCounter.toNat = (80 - s.roundCounter.toNat) + 1 := by omega
    rw [hsteps, run_add hrun]
    exact ⟨_, hlast, rfl, rfl, congrArg₂ (compress true) hw hh⟩

end Sys2Proof.Machine
end

section
/-! Proofs: the address map in numbers, and the host accesses to the window (20_memory). -/

namespace Sys2Proof.Machine

/-! The address map in numbers (20_memory R51) -/

@[simp] theorem offset_w_toNat (j : Fin 80) : (Reg.w j).offset.toNat = 4 * j.val := by
  rw [Reg.offset, BitVec.toNat_ofNat]
  omega

@[simp] theorem offset_h_toNat (j : Fin 5) : (Reg.h j).offset.toNat = 0x140 + 4 * j.val := by
  rw [Reg.offset, BitVec.toNat_ofNat]
  omega

/-- An offset with a register's number is the register's. -/
theorem accessed_of_toNat {off : Offset} {r : Reg} (h : off.toNat = r.offset.toNat) : accessed off 4 = some r :=
  accessed_eq_some.2 ⟨rfl, BitVec.eq_of_toNat_eq h⟩

/-- No register stands at a bad place. -/
theorem not_badPlace_offset (r : Reg) : ¬ badPlace r.offset 4 := by
  cases r with
  | w j => rw [badPlace, offset_w_toNat]; omega
  | h j => rw [badPlace, offset_h_toNat]; omega
  | _ => decide

/-- An access to a bad place reaches no register (60_exceptions R161). -/
theorem accessed_of_badPlace {off : Offset} {n : Nat} (h : badPlace off n) : accessed off n = none := by
  cases ha : accessed off n with
  | none => rfl
  | some r =>
    obtain ⟨rfl, rfl⟩ := accessed_eq_some.1 ha
    exact absurd h (not_badPlace_offset r)

/-- Settles O17: each offset has the number of its register's, and the reserved ones are bad places. -/
theorem addressMap : Obligations.AddressMap := by
  intro off
  refine ⟨fun j h => ?w, fun j h => ?h, accessed_of_toNat (r := .opa), accessed_of_toNat (r := .opb),
    accessed_of_toNat (r := .opc), accessed_of_toNat (r := .opi), accessed_of_toNat (r := .res),
    accessed_of_toNat (r := .cmd), accessed_of_toNat (r := .status), accessed_of_toNat (r := .id), fun h => ?reserved⟩
  case w => exact accessed_of_toNat (h.trans (offset_w_toNat j).symm)
  case h => exact accessed_of_toNat (h.trans (offset_h_toNat j).symm)
  case reserved => exact accessed_of_badPlace (.inr (.inr h))

/-! Reads (20_memory R52, R58) -/

/-- A 4-byte read at an offset with a register's number. -/
theorem memRead_of_toNat {off : Offset} {r : Reg} (s : State) (h : off.toNat = r.offset.toNat) :
    memRead off 4 s = respond .ok (some (s.readReg r)) s := by
  rw [memRead, accessed_of_toNat h]

/-- A read of a bad place. -/
theorem memRead_of_badPlace {off : Offset} {n : Nat} (s : State) (h : badPlace off n) :
    memRead off n s = badAccess (some 0) s := by
  rw [memRead, accessed_of_badPlace h]

/-- Settles O18: a bad place reaches no register, and any other clause's offset has the number of its register's. -/
theorem memReadByTheMap : Obligations.MemReadByTheMap := by
  intro s off n
  refine ⟨fun h => ?bad, fun j h => ?w, fun j h => ?h, memRead_of_toNat (r := .opa) s, memRead_of_toNat (r := .opb) s,
    memRead_of_toNat (r := .opc) s, memRead_of_toNat (r := .opi) s, memRead_of_toNat (r := .res) s,
    memRead_of_toNat (r := .cmd) s, memRead_of_toNat (r := .status) s, memRead_of_toNat (r := .id) s⟩
  case bad => rw [memRead_of_badPlace s h, badAccess_eq]
  case w => exact memRead_of_toNat s (h.trans (offset_w_toNat j).symm)
  case h => exact memRead_of_toNat s (h.trans (offset_h_toNat j).symm)

/-- The response is in no register of the window. -/
@[simp] theorem readReg_respond (st : BusStatus) (d : Option Word) (s : State) (r : Reg) :
    (respond st d s).readReg r = s.readReg r := by
  cases r <;> rfl

/-! What is done twice is done once -/

@[simp] theorem respond_respond (st st' : BusStatus) (d d' : Option Word) (s : State) :
    respond st d (respond st' d' s) = respond st d s := rfl

@[simp] theorem badAccess_badAccess (d d' : Option Word) (s : State) :
    badAccess d (badAccess d' s) = badAccess d s := by
  simp only [badAccess, respond_raise, raise_raise, respond_respond]

theorem writeStatus_respond (v : Word) (st : BusStatus) (d : Option Word) (s : State) :
    writeStatus v (respond st d s) = respond st d (writeStatus v s) := by
  simp only [writeStatus_eq]
  rfl

@[simp] theorem writeStatus_writeStatus (v : Word) (s : State) : writeStatus v (writeStatus v s) = writeStatus v s := by
  simp only [writeStatus_eq]
  cases v.getLsbD 1 <;> cases v.getLsbD 2 <;> rfl

theorem storeReg_respond (r : Reg) (v : Word) (st : BusStatus) (d : Option Word) (s : State) :
    (respond st d s).storeReg r v = respond st d (s.storeReg r v) := by
  cases r <;> rfl

@[simp] theorem storeReg_storeReg (r : Reg) (v : Word) (s : State) :
    (s.storeReg r v).storeReg r v = s.storeReg r v := by
  cases r with
  | w j => simp [State.storeReg]
  | h j => simp [State.storeReg]
  | _ => rfl

/-- A repeated read is one read (20_memory R58). -/
theorem memRead_memRead (off : Offset) (n : Nat) (s : State) : memRead off n (memRead off n s) = memRead off n s := by
  unfold memRead
  cases accessed off n with
  | none => exact badAccess_badAccess _ _ s
  | some r => simp only [readReg_respond, respond_respond]

/-- A repeated write to any register but CMD is one write (20_memory R58). -/
theorem writeReg_twice {r : Reg} (hr : r ≠ .cmd) (v : Word) (s : State) :
    ∃ t, writeReg r v s = .next t ∧ writeReg r v t = .next t := by
  unfold writeReg
  cases hc : r.writeClass with
  | readOnly => exact ⟨_, rfl, by simp⟩
  | writeOneToClear => exact ⟨_, rfl, by simp [writeStatus_respond]⟩
  | input =>
    cases hb : s.busy with
    | true => exact ⟨_, rfl, by simp [hb, ← respond_raise]⟩
    | false => exact ⟨_, rfl, by simp [hb, storeReg_respond]⟩
  | command =>
    cases r with
    | cmd => exact absurd rfl hr
    | _ => cases hc

/-- A repeated write to any offset but CMD's is one write (20_memory R58). -/
theorem memWrite_twice {off : Offset} (hoff : off.toNat ≠ 0x178) (n : Nat) (v : Word) (s : State) :
    ∃ t, memWrite off n v s = .next t ∧ memWrite off n v t = .next t := by
  unfold memWrite
  cases ha : accessed off n with
  | none => exact ⟨_, rfl, by simp⟩
  | some r =>
    refine writeReg_twice (fun hr => hoff ?_) v s
    rw [(accessed_eq_some.1 ha).2, hr]
    rfl

/-- Settles O22: each access done twice is the access done once, and a read at a register changes the response alone. -/
theorem accessesAreIdempotent : Obligations.AccessesAreIdempotent :=
  ⟨fun s off n => memRead_memRead off n s, fun s r => ⟨s.readReg r, memRead_offset r s⟩,
    fun s _ n v hoff => memWrite_twice hoff n v s⟩

/-! Writes while idle (20_memory R53) -/

/-- A 4-byte write to a data register while idle stores the word. -/
theorem memWrite_input_of_idle {r : Reg} {s : State} (hb : s.busy = false) (hc : r.writeClass = .input) (v : Word) :
    memWrite r.offset 4 v s = .next (respond .ok none (s.storeReg r v)) := by
  rw [memWrite_offset]
  simp [writeReg, hc, hb]

/-- Settles O21: the write is a store, which changes its own register alone. -/
theorem idleWriteIsReadBack : Obligations.IdleWriteIsReadBack := by
  intro s r v hb hc
  refine ⟨_, memWrite_input_of_idle hb hc v, ?_, fun r' hne => ?_, by simp⟩
  · rw [readReg_respond, readReg_storeReg_self hc]
  · rw [readReg_respond, readReg_storeReg_ne hne]

/-! A host's addresses (20_memory R50, 43_control R153) -/

/-- The offset of an address in the window. -/
theorem windowOffset_add (base : Nat) (off : Offset) : windowOffset base (base + off.toNat) = some off := by
  have hlt := off.isLt
  rw [windowOffset, if_pos (by omega), Nat.add_sub_cancel_left, BitVec.ofNat_toNat, BitVec.setWidth_eq]

/-- An address outside the window has no offset. -/
theorem windowOffset_outside {base addr : Nat} (h : addr < base ∨ base + 0x200 ≤ addr) :
    windowOffset base addr = none :=
  if_neg (by omega)

/-- Settles O25: an address is an access exactly where it has an offset in the window. -/
theorem hostAddressesReachTheWindow : Obligations.HostAddressesReachTheWindow := by
  refine ⟨Nat.mul_mod_right _ _, fun s addr n v => ⟨?inside, fun h => ?outside⟩⟩
  case inside =>
    rintro off rfl
    simp only [State.hostRead, State.hostWrite, windowOffset_add, State.withSchedule, and_self]
  case outside => simp only [State.hostRead, State.hostWrite, windowOffset_outside h, and_self]

end Sys2Proof.Machine
end

section
/-! Proofs: the decoder by the two fields of a command word and as the inverse of the encoder, the step of a command
write, and what a read of STATUS tells a polling host. -/

namespace Sys2Proof.Machine

/-! The fields of a command word and the opcode map (30_encoding R71, R74) -/

/-- A word is fixed by its RSV and its OP (30_encoding R71). -/
theorem word_eq_of_fields {v v' : Word} (hr : rsvField v = rsvField v') (ho : opField v = opField v') : v = v' := by
  have hfields (x : Word) : rsvField x ++ opField x = x := BitVec.extractLsb'_append_extractLsb'
  rw [← hfields v, hr, ho, hfields]

/-- The code of a command is the OP of its word, and no other code is (30_encoding R74). -/
theorem opcodeMap_eq_some_iff {op : BitVec 4} {i : Instr} : opcodeMap op = some i ↔ op = opField (encode i) := by
  cases i with
  | _ => revert op; decide

/-- The map leaves out the codes 0x4 to 0xF alone (30_encoding R74). -/
theorem opcodeMap_eq_none_iff {op : BitVec 4} : opcodeMap op = none ↔ 4 ≤ op.toNat := by
  revert op; decide

/-- Every command's word meets the checks made once per command. -/
theorem encodeFits (i : Instr) : Laws.EncodeFits.Statement i :=
  match i with
  | .nop => Laws.EncodeFits.nop
  | .compress => Laws.EncodeFits.compress
  | .rotl => Laws.EncodeFits.rotl
  | .mix => Laws.EncodeFits.mix

/-! The decoder (30_encoding R75, R76) -/

/-- With RSV 0 and the code of a command in OP, a word is that command. -/
theorem decode_eq_ok_of_fields {v : Word} {i : Instr} (hr : rsvField v = 0) (ho : opcodeMap (opField v) = some i) :
    decode v = .ok i := by
  simp [decode, hr, ho]

/-- With RSV 0 and OP 4 or more, a word is rejected for its OP. -/
theorem decode_eq_reservedOpcode {v : Word} (hr : rsvField v = 0) (ho : 4 ≤ (opField v).toNat) :
    decode v = .error .reservedOpcode := by
  simp [decode, hr, opcodeMap_eq_none_iff.2 ho]

/-- The decoder reads every command back from its word. -/
theorem decode_encode (i : Instr) : decode (encode i) = .ok i :=
  have ⟨_, hr, ho⟩ := encodeFits i
  decode_eq_ok_of_fields hr ho

/-- Everything the decoder can answer: a rejection for RSV, a rejection for OP, or the command whose word it is. -/
theorem decode_cases (v : Word) :
    (rsvField v ≠ 0 ∧ decode v = .error .reservedBits) ∨
    (rsvField v = 0 ∧ 4 ≤ (opField v).toNat ∧ decode v = .error .reservedOpcode) ∨
    ∃ i, v = encode i := by
  by_cases hr : rsvField v = 0
  · cases ho : opcodeMap (opField v) with
    | none =>
      have h4 := opcodeMap_eq_none_iff.1 ho
      exact .inr (.inl ⟨hr, h4, decode_eq_reservedOpcode hr h4⟩)
    | some i =>
      have ⟨_, hri, _⟩ := encodeFits i
      exact .inr (.inr ⟨i, word_eq_of_fields (hr.trans hri.symm) (opcodeMap_eq_some_iff.1 ho)⟩)
  · exact .inl ⟨hr, if_pos hr⟩

/-- A word decodes to a command exactly when it is that command's own word (30_encoding R75). -/
theorem decode_eq_ok_iff {v : Word} {i : Instr} : decode v = .ok i ↔ v = encode i := by
  constructor
  · intro h
    rcases decode_cases v with ⟨_, he⟩ | ⟨_, _, he⟩ | ⟨j, rfl⟩
    · rw [he] at h; cases h
    · rw [he] at h; cases h
    · rw [decode_encode] at h
      rw [Except.ok.inj h]
  · rintro rfl
    exact decode_encode i

/-- A command word is well formed exactly when it is not reserved (30_encoding R76, 60_exceptions R163). -/
theorem commandWordWellFormed_iff {v : Word} : commandWordWellFormed v = true ↔ ¬ reservedWord v := by
  simp [commandWordWellFormed, BitVec.lt_def]

/-- No command's word is reserved. -/
theorem not_reservedWord_encode (i : Instr) : ¬ reservedWord (encode i) :=
  commandWordWellFormed_iff.1 (encodeFits i).1

/-- The decoder rejects the reserved words and no others (30_encoding R76). -/
theorem decode_error_iff_reservedWord {v : Word} : (∃ x, decode v = .error x) ↔ reservedWord v := by
  rcases decode_cases v with ⟨hr, he⟩ | ⟨_, h4, he⟩ | ⟨i, rfl⟩
  · exact iff_of_true ⟨_, he⟩ (.inl hr)
  · exact iff_of_true ⟨_, he⟩ (.inr h4)
  · exact iff_of_false (by simp [decode_encode]) (not_reservedWord_encode i)

/-- The decoder accepts exactly the words it does not reject: those that are not reserved. -/
theorem decode_ok_iff_not_reservedWord {v : Word} : (∃ i, decode v = .ok i) ↔ ¬ reservedWord v := by
  rw [← decode_error_iff_reservedWord]
  cases decode v with
  | error x => simp
  | ok i => simp

/-- Settles O3: what the decoder accepts is a command's own word, and what it rejects is a reserved word. -/
theorem everyWordHasOneMeaning : Obligations.EveryWordHasOneMeaning := fun _ =>
  ⟨fun _ => decode_eq_ok_iff, commandWordWellFormed_iff.trans decode_ok_iff_not_reservedWord.symm,
    decode_error_iff_reservedWord⟩

/-- Settles O2: the word of a command decodes to it and is well formed. -/
theorem decodeOfEncodeIsTheCommand : Obligations.DecodeOfEncodeIsTheCommand := fun i _ =>
  ⟨decode_encode i, (encodeFits i).1⟩

/-- Settles O1: the words 0 to 3 are the encodings of the four commands; a number from 4 to 0xF has RSV 0 and is its own
OP. -/
theorem opcodeMapWords : Obligations.OpcodeMapWords := by
  refine ⟨decode_encode .nop, decode_encode .compress, decode_encode .rotl, decode_encode .mix, fun k h4 hF => ?_⟩
  have hr : rsvField (BitVec.ofNat 32 k) = 0 := by
    apply BitVec.eq_of_toNat_eq
    simp only [rsvField, BitVec.extractLsb'_toNat, BitVec.toNat_ofNat, Nat.shiftRight_eq_div_pow, BitVec.ofNat_eq_ofNat]
    omega
  have ho : 4 ≤ (opField (BitVec.ofNat 32 k)).toNat := by
    simp only [opField, BitVec.extractLsb'_toNat, BitVec.toNat_ofNat, Nat.shiftRight_zero]
    omega
  exact decode_eq_reservedOpcode hr ho

/-! A command write, and a read of STATUS -/

/-- Settles O5: the write to CMD heads the schedule, and in either phase it is `exec` of the command it decodes to. -/
theorem stepRunsTheDecodedCommand : Obligations.StepRunsTheDecodedCommand :=
  fun _ _ _ _ hs hd => step_commandWrite hs hd

/-- The schedule is in no register of the window. -/
@[simp] theorem readReg_withSchedule (es : List Event) (s : State) (r : Reg) :
    (s.withSchedule es).readReg r = s.readReg r := by
  cases r <;> rfl

/-- A step whose event reads a register answers with the register's word (20_memory R52). -/
theorem step_lineRD {s : State} {r : Reg} {rest : List Event} (hs : s.schedule = lineRD r :: rest) :
    step s = .next (respond .ok (some (s.readReg r)) (s.withSchedule rest)) := by
  have hread : step s = .next (memRead r.offset 4 (s.withSchedule rest)) := step_of_schedule_cons hs
  rw [hread, memRead_offset, readReg_withSchedule]

/-! The tests of a polling host look at bits of the word just read (30_encoding R79, 70_reset R197) -/

@[simp] theorem waitEnds_respond (v : Word) (s : State) :
    waitEnds (respond .ok (some v) s) = !v.getLsbD 0 := rfl
@[simp] theorem checkPasses_respond (v : Word) (s : State) :
    checkPasses (respond .ok (some v) s) = !v.getLsbD 2 := rfl
@[simp] theorem checkCompleted_respond (v : Word) (s : State) :
    checkCompleted (respond .ok (some v) s) = (!v.getLsbD 2 && v.getLsbD 1) := rfl

/-- Settles O53: the step answers with STATUS, whose bits 0, 1 and 2 are BUSY, DONE and ERR, and each test looks at
those bits of the answer. -/
theorem pollingReadsTheFlags : Obligations.PollingReadsTheFlags := by
  intro s rest hs
  obtain ⟨hbusy, hdone, herr, -⟩ := statusLayoutAndClear.2 s 0
  refine ⟨respond .ok (some s.statusWord) (s.withSchedule rest), step_lineRD hs, rfl, ?wait, ?check, ?completed⟩
  case wait => rw [waitEnds_respond, hbusy, Bool.not_eq_true', not_busy_iff]
  case check => rw [checkPasses_respond, herr, Bool.not_eq_true']
  case completed => rw [checkCompleted_respond, herr, hdone, Bool.and_eq_true, Bool.not_eq_true']

end Sys2Proof.Machine
end

section
/-! Proofs: the five-operand adder, the round constants, the round, compress as eighty rounds in order, and COMPRESS
from its acceptance to its completion (40_compress). -/

namespace Sys2Proof.Machine

/-! The five-operand adder (40_compress R102) -/

theorem add5_toNat (p q r s t : Word) :
    (add5 p q r s t).toNat = (p.toNat + q.toNat + r.toNat + s.toNat + t.toNat) % 2 ^ 32 := by
  rw [add5, BitVec.toNat_ofNat]

/-- Reducing the exact sum once is the same as reducing after each addition. -/
theorem add5_eq_add (p q r s t : Word) : add5 p q r s t = p + q + r + s + t := by
  simp [add5, BitVec.ofNat_add]

/-- Five words add up to their sum over the index, which names no order. -/
theorem add5_eq_sum (f : Fin 5 → Word) : add5 (f 0) (f 1) (f 2) (f 3) (f 4) = ∑ j, f j := by
  rw [add5_eq_add, Fin.sum_univ_five]

/-- Settles O12: the adder is a sum over the index of its operands, and a permutation of the index keeps that sum. -/
theorem fiveOperandAdder : Obligations.FiveOperandAdder := by
  refine ⟨fun p q r s t => ⟨add5_toNat p q r s t, ?_, by decide⟩, fun f σ => ?_⟩
  · have hp := p.isLt
    have hq := q.isLt
    have hr := r.isLt
    have hs := s.isLt
    have ht := t.isLt
    omega
  · calc add5 (f (σ 0)) (f (σ 1)) (f (σ 2)) (f (σ 3)) (f (σ 4))
        = ∑ j, f (σ j) := add5_eq_sum fun j => f (σ j)
      _ = ∑ j, f j := Equiv.sum_comp σ f
      _ = add5 (f 0) (f 1) (f 2) (f 3) (f 4) := (add5_eq_sum f).symm

/-! The round constants (40_compress R101) -/

/-- K(i) is the entry of the table at i div 20. -/
theorem roundConstant_of_band {i : Fin 80} {k : Fin 4} (h : i.val / 20 = k.val) : roundConstant i = kTable[k] := by
  obtain rfl : band i = k := Fin.ext h
  rfl

/-- Settles O13: the rounds of each range lie in one band. -/
theorem roundConstantByBand : Obligations.RoundConstantByBand := fun i =>
  ⟨fun _ => roundConstant_of_band (k := 0) (by omega), fun _ _ => roundConstant_of_band (k := 1) (by omega),
    fun _ _ => roundConstant_of_band (k := 2) (by omega), fun _ => roundConstant_of_band (k := 3) (by omega)⟩

/-! The round (40_compress R103) -/

/-- The barrel is the library's rotation, by the shift modulo 32 (41_rotate R130). -/
theorem rotl32_eq_rotateLeft (v s : Word) : rotl32 v s = v.rotateLeft (s.toNat % 32) := by
  have hr : (s &&& 31).toNat = s.toNat % 32 := Nat.and_two_pow_sub_one_eq_mod s.toNat 5
  rw [BitVec.rotateLeft_def, Nat.mod_mod, rotl32, ← hr]
  by_cases h0 : s &&& 31 = 0
  · rw [if_pos h0, h0]
    simp [BitVec.ushiftRight_eq_zero]
  · have hle : s &&& 31 ≤ 32 := by
      rw [BitVec.le_def, hr]
      exact (Nat.mod_lt _ (by decide)).le
    rw [if_neg h0, BitVec.shiftLeft_eq', BitVec.ushiftRight_eq', BitVec.toNat_sub_of_le hle]
    rfl

/-- Settles O15: the adder as a word sum and the barrel as a rotation, by 5 and by 30. -/
theorem roundIsSynchronous : Obligations.RoundIsSynchronous := by
  intro i a b c d e w
  rw [roundOf, add5_eq_add, rotl32_eq_rotateLeft, rotl32_eq_rotateLeft]
  rfl

/-! Eighty rounds in order (40_compress R104) -/

/-- A sequence that meets the round recurrence holds, at `n`, the working variables after the first `n` rounds. -/
theorem rounds_take_eq_of_recurrence {w : Vector Word 80} {x : Nat → Work}
    (hx : ∀ i : Fin 80, x (i.val + 1) = roundOf i (x i.val) w[i]) :
    ∀ n ≤ 80, rounds w ((List.finRange 80).take n) (x 0) = x n
  | 0, _ => rfl
  | n + 1, hn => by
    rw [take_succ_finRange n hn, rounds_append, rounds_take_eq_of_recurrence hx n (Nat.le_of_succ_le hn), rounds_cons,
      rounds_nil]
    exact (hx ⟨n, hn⟩).symm

/-- Settles O16: after all 80 rounds the working variables are x(80), and `compress` writes those back. -/
theorem compressIsEightyRoundsInOrder : Obligations.CompressIsEightyRoundsInOrder := by
  refine ⟨rfl, fun ff w h x h0 hx => ?_⟩
  have hall : rounds w (List.finRange 80) (x 0) = x 80 := by
    have h80 := rounds_take_eq_of_recurrence hx 80 le_rfl
    rwa [List.take_of_length_le (by simp)] at h80
  rw [compress, loadState, ← h0, hall, writeBack]

/-! From acceptance to completion (40_compress R105, R108) -/

/-- Settles O31: the acceptance leaves no round done, so the completion writes back the 80 rounds from H. -/
theorem compressCompletesWithCompress : Obligations.CompressCompletesWithCompress := by
  intro ff s hp
  exact ⟨loadWork (accept .compress s), _, exec_compress_of_idle ((not_busy_iff s).2 hp), rfl,
    coreComplete_compress rfl (roundsHeld_loadWork _) ff, rfl⟩

end Sys2Proof.Machine
end

section
/-! Proofs: the rotate-left-32 barrel bit by bit, the laws of rotl32, and ROTL from its acceptance to its completion
(41_rotate). -/

namespace Sys2Proof.Machine

/-! The barrel (41_rotate R130) -/

theorem and_31_toNat (s : Word) : (s &&& 31).toNat = s.toNat % 32 :=
  Nat.and_two_pow_sub_one_eq_mod s.toNat 5

theorem rotl32_of_and_31_eq_zero {s : Word} (v : Word) (h : s &&& 31 = 0) : rotl32 v s = v := if_pos h

theorem rotl32_of_and_31_ne_zero {s : Word} (v : Word) (h : s &&& 31 ≠ 0) :
    rotl32 v s = (v <<< (s &&& 31)) ||| (v >>> (32 - (s &&& 31))) := if_neg h

/-- R130's second form. -/
theorem getLsbD_rotl32 (v s : Word) {k : Nat} (hk : k < 32) :
    (rotl32 v s).getLsbD k = v.getLsbD ((k + 32 - s.toNat % 32) % 32) := by
  rw [rotl32_eq_rotateLeft, BitVec.getLsbD_rotateLeft, Nat.mod_mod]
  by_cases hwrap : k < s.toNat % 32
  · have hidx : 32 - s.toNat % 32 + k = (k + 32 - s.toNat % 32) % 32 := by omega
    rw [decide_eq_true hwrap, cond_true, hidx]
  · have hidx : k - s.toNat % 32 = (k + 32 - s.toNat % 32) % 32 := by omega
    rw [decide_eq_false hwrap, cond_false, decide_eq_true hk, Bool.true_and, hidx]

/-- Settles O8: its two cases are the barrel's own, and the bits are those of the library's rotation. -/
theorem rotlIsTheBarrel : Obligations.RotlIsTheBarrel := by
  refine fun v s => ⟨rotl32_of_and_31_eq_zero v, rotl32_of_and_31_ne_zero v, fun k hk => ?_⟩
  rw [and_31_toNat, getLsbD_rotl32 v s hk]

/-! The laws (41_rotate R132) -/

/-- Only the shift modulo 32 counts. -/
theorem rotl32_congr {s t : Word} (v : Word) (h : s.toNat % 32 = t.toNat % 32) : rotl32 v s = rotl32 v t := by
  rw [rotl32_eq_rotateLeft, rotl32_eq_rotateLeft, h]

/-- Shifts add up, and may wrap modulo 2^32, which is a multiple of 32. -/
theorem rotl32_rotl32 (v s t : Word) : rotl32 (rotl32 v s) t = rotl32 v (s + t) := by
  refine BitVec.eq_of_getLsbD_eq fun k hk => ?_
  have hidx : ((k + 32 - t.toNat % 32) % 32 + 32 - s.toNat % 32) % 32 = (k + 32 - (s + t).toNat % 32) % 32 := by
    rw [BitVec.toNat_add]
    omega
  rw [getLsbD_rotl32 _ t hk, getLsbD_rotl32 v s (Nat.mod_lt _ (by decide)), getLsbD_rotl32 v (s + t) hk, hidx]

@[simp] theorem rotl32_zero (v : Word) : rotl32 v 0 = v := rotl32_of_and_31_eq_zero v (by decide)

@[simp] theorem rotl32_32 (v : Word) : rotl32 v 32 = v := rotl32_of_and_31_eq_zero v (by decide)

/-- Settles O9: two rotations are one by the sum of their shifts, of which only the value modulo 32 counts. -/
theorem rotlLaws : Obligations.RotlLaws := by
  refine ⟨fun v s => ?inverse, fun v => ⟨rotl32_zero v, rotl32_32 v⟩, fun v s => ?reduced, fun v s t => ?composed⟩
  case inverse =>
    calc rotl32 (rotl32 v s) (32 - s)
        = rotl32 v (s + (32 - s)) := rotl32_rotl32 v s (32 - s)
      _ = rotl32 v 32 := by rw [add_sub_cancel]
      _ = v := rotl32_32 v
  case reduced => exact rotl32_congr v (by simp)
  case composed =>
    rw [rotl32_rotl32]
    exact rotl32_congr v (by simp [BitVec.toNat_add])

/-! From acceptance to completion (41_rotate R131) -/

/-- Settles O32: the acceptance keeps OPA and OPB, so the completion rotates the operands ROTL was accepted with. -/
theorem rotlCompletesWithRotation : Obligations.RotlCompletesWithRotation := by
  intro ff s hp
  rw [← rotl32_eq_rotateLeft]
  exact ⟨accept .rotl s, exec_rotl_of_idle ((not_busy_iff s).2 hp), rfl, rfl⟩

end Sys2Proof.Machine
end

section
/-! Proofs: the mixer band by band and bit by bit, its switch together with the round constant, and MIX from its
acceptance to its completion (42_mix). -/

namespace Sys2Proof.Machine

/-! The bands (42_mix R140) -/

section
variable {i : Int}

theorem mix_eq_choose (h0 : 0 ≤ i) (h19 : i ≤ 19) (b c d : Word) : mix i b c d = choose b c d := if_pos ⟨h0, h19⟩

theorem mix_eq_parity_low (h20 : 20 ≤ i) (h39 : i ≤ 39) (b c d : Word) : mix i b c d = parity b c d := by
  rw [mix, if_neg (by omega), if_pos ⟨h20, h39⟩]

theorem mix_eq_majority (h40 : 40 ≤ i) (h59 : i ≤ 59) (b c d : Word) : mix i b c d = majority b c d := by
  rw [mix, if_neg (by omega), if_neg (by omega), if_pos ⟨h40, h59⟩]

theorem mix_eq_parity_high (h60 : 60 ≤ i) (h79 : i ≤ 79) (b c d : Word) : mix i b c d = parity b c d := by
  rw [mix, if_neg (by omega), if_neg (by omega), if_neg (by omega), if_pos ⟨h60, h79⟩]

theorem mix_eq_zero (h : i < 0 ∨ 79 < i) (b c d : Word) : mix i b c d = 0 := by
  rw [mix, if_neg (by omega), if_neg (by omega), if_neg (by omega), if_neg (by omega)]

end

/-- Everything `mix` can be at one index. -/
theorem mix_cases (i : Int) :
    (∀ b c d, mix i b c d = choose b c d) ∨ (∀ b c d, mix i b c d = parity b c d) ∨
    (∀ b c d, mix i b c d = majority b c d) ∨ ∀ b c d, mix i b c d = 0 := by
  have hi : (0 ≤ i ∧ i ≤ 19) ∨ (20 ≤ i ∧ i ≤ 39) ∨ (40 ≤ i ∧ i ≤ 59) ∨ (60 ≤ i ∧ i ≤ 79) ∨ i < 0 ∨ 79 < i := by omega
  obtain ⟨h, h'⟩ | ⟨h, h'⟩ | ⟨h, h'⟩ | ⟨h, h'⟩ | h := hi
  · exact .inl (mix_eq_choose h h')
  · exact .inr (.inl (mix_eq_parity_low h h'))
  · exact .inr (.inr (.inl (mix_eq_majority h h')))
  · exact .inr (.inl (mix_eq_parity_high h h'))
  · exact .inr (.inr (.inr (mix_eq_zero h)))

/-! Each formula bit by bit (42_mix R140) -/

theorem getLsbD_choose (b c d : Word) (k : Nat) :
    (choose b c d).getLsbD k = (b.getLsbD k && c.getLsbD k || !b.getLsbD k && d.getLsbD k) := by
  by_cases hk : k < 32
  · simp [choose, hk]
  · have hge : 32 ≤ k := Nat.le_of_not_lt hk
    simp [BitVec.getLsbD_of_ge _ _ hge]

theorem getLsbD_parity (b c d : Word) (k : Nat) :
    (parity b c d).getLsbD k = (b.getLsbD k ^^ c.getLsbD k ^^ d.getLsbD k) := by
  simp [parity]

theorem getLsbD_majority (b c d : Word) (k : Nat) :
    (majority b c d).getLsbD k =
      (b.getLsbD k && c.getLsbD k || b.getLsbD k && d.getLsbD k || c.getLsbD k && d.getLsbD k) := by
  simp [majority]

/-- Bit `k` of the result depends on bit `k` of the operands alone. -/
theorem getLsbD_mix_congr (i : Int) {b c d b' c' d' : Word} {k : Nat} (hb : b.getLsbD k = b'.getLsbD k)
    (hc : c.getLsbD k = c'.getLsbD k) (hd : d.getLsbD k = d'.getLsbD k) :
    (mix i b c d).getLsbD k = (mix i b' c' d').getLsbD k := by
  obtain h | h | h | h := mix_cases i
  · simp only [h, getLsbD_choose, hb, hc, hd]
  · simp only [h, getLsbD_parity, hb, hc, hd]
  · simp only [h, getLsbD_majority, hb, hc, hd]
  · simp only [h]

/-- Settles O10: band by band the formula is the one R140 names, and each formula works on each bit separately. -/
theorem mixFollowsTheBands : Obligations.MixFollowsTheBands := fun _ b c d =>
  ⟨fun h0 h19 => mix_eq_choose h0 h19 b c d, fun h20 h39 => mix_eq_parity_low h20 h39 b c d,
    fun h40 h59 => mix_eq_majority h40 h59 b c d, fun h60 h79 => mix_eq_parity_high h60 h79 b c d,
    fun h => mix_eq_zero h b c d, fun _ _ _ _ hb hc hd => getLsbD_mix_congr _ hb hc hd⟩

/-- Settles O11: the two sides of each edge are the two formulas; where c alone is set, choose takes the bit of d,
which is 0, and parity is 1. -/
theorem mixBandEdges : Obligations.MixBandEdges := by
  refine ⟨fun b c d => ⟨fun hne => ?edge19, fun hne => ?edge39, fun hne => ?edge59⟩, 0, BitVec.allOnes 32, 0, by decide⟩
  case edge19 => rwa [mix_eq_choose (by decide) (by decide), mix_eq_parity_low (by decide) (by decide)]
  case edge39 => rwa [mix_eq_parity_low (by decide) (by decide), mix_eq_majority (by decide) (by decide)]
  case edge59 => rwa [mix_eq_majority (by decide) (by decide), mix_eq_parity_high (by decide) (by decide)]

/-! The mixer and the constant by band (40_compress R100, 42_mix R143) -/

/-- The formula of each band (42_mix R140). -/
def bandFormula : Fin 4 → Word → Word → Word → Word
  | 0 => choose
  | 1 => parity
  | 2 => majority
  | 3 => parity

/-- In a round, `mix` is the formula of the round's band, as K(i) is the constant of that band. -/
theorem mix_eq_bandFormula (i : Fin 80) (b c d : Word) : mix i.val b c d = bandFormula (band i) b c d := by
  have hi : i.val / 20 = (band i).val := rfl
  match band i, hi with
  | 0, hi => exact mix_eq_choose (by omega) (by omega) b c d
  | 1, hi => exact mix_eq_parity_low (by omega) (by omega) b c d
  | 2, hi => exact mix_eq_majority (by omega) (by omega) b c d
  | 3, hi => exact mix_eq_parity_high (by omega) (by omega) b c d

theorem kTable_injective : ∀ k l : Fin 4, kTable[k] = kTable[l] → k = l := by decide

/-- With c alone set, parity is all ones while choose and majority are 0, so the formula changes from each band to the
next. -/
theorem bandFormula_ne_next : ∀ k l : Fin 4, l.val = k.val + 1 →
    bandFormula k 0 (BitVec.allOnes 32) 0 ≠ bandFormula l 0 (BitVec.allOnes 32) 0 := by decide

/-- With every bit set, each formula is all ones. -/
theorem bandFormula_allOnes (k : Fin 4) :
    bandFormula k (BitVec.allOnes 32) (BitVec.allOnes 32) (BitVec.allOnes 32) = BitVec.allOnes 32 := by
  revert k; decide

/-- Settles O14: constant and formula are both functions of the band, the constants differ between any two bands, and
the formulas between neighbouring ones. -/
theorem mixerAndConstantSwitchTogether : Obligations.MixerAndConstantSwitchTogether := by
  refine ⟨fun i j hij => ?sameBand, fun i j hij hK => ?otherConstant, fun i j hj hij => ?otherFormula, fun i => ?nonzero⟩
  case sameBand =>
    have hband : band i = band j := Fin.ext hij
    exact ⟨roundConstant_of_band (k := band j) hij, fun b c d => by
      rw [mix_eq_bandFormula, hband, mix_eq_bandFormula]⟩
  case otherConstant => exact hij (congrArg Fin.val (kTable_injective _ _ hK))
  case otherFormula =>
    have hnext : (band j).val = (band i).val + 1 := by
      simp only [band]
      omega
    refine ⟨0, BitVec.allOnes 32, 0, ?_⟩
    rw [mix_eq_bandFormula, mix_eq_bandFormula]
    exact bandFormula_ne_next _ _ hnext
  case nonzero =>
    refine ⟨BitVec.allOnes 32, BitVec.allOnes 32, BitVec.allOnes 32, ?_⟩
    rw [mix_eq_bandFormula, bandFormula_allOnes]
    decide

/-! From acceptance to completion (42_mix R141) -/

/-- OPI read as two's complement (10_state R24). -/
theorem roundIndex_eq (s : State) :
    s.roundIndex = if s.opi.toNat < 2 ^ 31 then (s.opi.toNat : Int) else (s.opi.toNat : Int) - 2 ^ 32 := by
  rw [State.roundIndex, BitVec.toInt_eq_toNat_cond]
  omega

/-- Settles O33: the acceptance keeps OPI, OPA, OPB and OPC, so the completion mixes the operands MIX was accepted
with. -/
theorem mixCompletesWithMix : Obligations.MixCompletesWithMix := by
  intro ff s hp
  rw [← roundIndex_eq]
  exact ⟨accept .mix s, exec_mix_of_idle ((not_busy_iff s).2 hp), rfl, rfl⟩

end Sys2Proof.Machine
end

section
/-! Proofs: NOP while idle and while a command is pending (43_control R150). -/

namespace Sys2Proof.Machine

/-- Settles O30: while idle NOP is `id`, and while busy it is turned away as every command is, which records
BUSY_VIOLATION alone. -/
theorem nopChangesNothing : Obligations.NopChangesNothing := by
  refine fun s => ⟨fun hp => ?idle, fun hb => ?busy⟩
  case idle => exact exec_nop_of_idle ((not_busy_iff s).2 hp)
  case busy => rw [exec_busy .nop s hb, raise_eq, ErrorKind.code]

end Sys2Proof.Machine
end

section
/-! Proofs: the errors (60_exceptions): which error an access raises, what it leaves as it was, and that nothing stops
the machine. -/

namespace Sys2Proof.Machine

/-! Recording an error (60_exceptions R165) -/

/-- Settles O26: ERR alone decides whether an error is recorded. -/
theorem raiseKeepsTheFirstError : Obligations.RaiseKeepsTheFirstError := by
  refine fun s e => ⟨fun h => ?first, fun h => ?later⟩
  case first => rw [raise, h]; rfl
  case later => exact if_pos h

/-- Settles O34: `exec` of any command while busy records BUSY_VIOLATION alone. -/
theorem secondCommandIsTurnedAway : Obligations.SecondCommandIsTurnedAway := by
  intro i s hb
  rw [exec_busy i s hb, raise_eq, ErrorKind.code]

/-! The numbers of 60_exceptions R161 and R162 in terms of the registers -/

/-- Every 4-byte place that is not bad is a register's (20_memory R51). -/
theorem eq_offset_of_not_badPlace {off : Offset} {n : Nat} (h : ¬ badPlace off n) :
    n = 4 ∧ ∃ r : Reg, off = r.offset := by
  simp only [badPlace, not_or, not_not] at h
  obtain ⟨hn, h⟩ := h
  refine ⟨hn, ?_⟩
  have atReg (r : Reg) (hr : off.toNat = r.offset.toNat) : ∃ r : Reg, off = r.offset := ⟨r, BitVec.eq_of_toNat_eq hr⟩
  by_cases hw : off.toNat < 0x140
  · exact atReg (.w ⟨off.toNat / 4, by omega⟩) (by rw [offset_w_toNat]; simp only; omega)
  by_cases hh : off.toNat < 0x154
  · exact atReg (.h ⟨(off.toNat - 0x140) / 4, by omega⟩) (by rw [offset_h_toNat]; simp only; omega)
  have hrest : off.toNat = 0x160 ∨ off.toNat = 0x164 ∨ off.toNat = 0x168 ∨ off.toNat = 0x16C ∨ off.toNat = 0x170 ∨
      off.toNat = 0x178 ∨ off.toNat = 0x17C ∨ off.toNat = 0x180 := by omega
  rcases hrest with h | h | h | h | h | h | h | h
  · exact atReg .opa h
  · exact atReg .opb h
  · exact atReg .opc h
  · exact atReg .opi h
  · exact atReg .res h
  · exact atReg .cmd h
  · exact atReg .status h
  · exact atReg .id h

/-- A register is at the place of a bad write exactly when it is read-only (60_exceptions R161). -/
theorem badWrite_offset_iff (r : Reg) : badWrite r.offset 4 ↔ r.writeClass = .readOnly := by
  rw [badWrite, or_iff_right (not_badPlace_offset r)]
  cases r with
  | w j => exact iff_of_false (by rw [offset_w_toNat]; omega) (by simp [Reg.writeClass])
  | h j => exact iff_of_false (by rw [offset_h_toNat]; omega) (by simp [Reg.writeClass])
  | _ => decide

/-- A register is closed while busy exactly when it is a data register a host writes, or CMD (60_exceptions R162). -/
theorem closedWhileBusy_offset_iff (r : Reg) :
    closedWhileBusy r.offset ↔ r.writeClass = .input ∨ r.writeClass = .command := by
  cases r with
  | w j => exact iff_of_true (by rw [closedWhileBusy, offset_w_toNat]; omega) (.inl rfl)
  | h j => exact iff_of_true (by rw [closedWhileBusy, offset_h_toNat]; omega) (.inl rfl)
  | _ => decide

/-- A write that is not BAD_ACCESS has 4 bytes and goes to a register that can be written. -/
theorem eq_offset_of_not_badWrite {off : Offset} {n : Nat} (h : ¬ badWrite off n) :
    n = 4 ∧ ∃ r : Reg, off = r.offset ∧ r.writeClass ≠ .readOnly := by
  obtain ⟨rfl, r, rfl⟩ := eq_offset_of_not_badPlace fun hbad => h (.inl hbad)
  exact ⟨rfl, r, rfl, fun hc => h ((badWrite_offset_iff r).2 hc)⟩

/-! BAD_ACCESS (60_exceptions R161) -/

/-- A write that is BAD_ACCESS, in either phase. -/
theorem memWrite_of_badWrite {off : Offset} {n : Nat} (v : Word) (s : State) (h : badWrite off n) :
    memWrite off n v s = .next (badAccess none s) := by
  cases ha : accessed off n with
  | none => rw [memWrite, ha]
  | some r =>
    obtain ⟨rfl, rfl⟩ := accessed_eq_some.1 ha
    rw [memWrite_offset, writeReg, (badWrite_offset_iff r).1 h]

/-- Settles O19: both kinds of access are `badAccess`, which changes ERR, ECODE and the response alone. -/
theorem badAccessChangesNothingElse : Obligations.BadAccessChangesNothingElse := by
  refine fun s off n v => ⟨fun h => ?read, fun h => ?write⟩
  case read => rw [memRead_of_badPlace s h, badAccess_eq]
  case write => rw [memWrite_of_badWrite v s h, badAccess_eq]

/-- A read that is not BAD_ACCESS raises nothing. -/
theorem memRead_flags_of_not_badPlace {off : Offset} {n : Nat} (s : State) (h : ¬ badPlace off n) :
    (memRead off n s).err = s.err ∧ (memRead off n s).ecode = s.ecode := by
  obtain ⟨rfl, r, rfl⟩ := eq_offset_of_not_badPlace h
  rw [memRead_offset]
  exact ⟨rfl, rfl⟩

/-! BUSY_VIOLATION (60_exceptions R162) -/

/-- A write to a register that is closed while busy, while busy. -/
theorem memWrite_of_closedWhileBusy {off : Offset} {n : Nat} {s : State} (v : Word) (hbad : ¬ badWrite off n)
    (hoff : closedWhileBusy off) (hb : s.busy = true) :
    memWrite off n v s = .next (respond .ok none (raise .busyViolation s)) := by
  obtain ⟨rfl, r, rfl, -⟩ := eq_offset_of_not_badWrite hbad
  rw [memWrite_offset]
  rcases (closedWhileBusy_offset_iff r).1 hoff with hc | hc
  · simp [writeReg, hc, hb]
  · simp [writeReg, hc, hb]

/-- The state with another error record and another response. -/
def State.withReport (err : Bool) (ecode : BitVec 4) (resp : Option Response) (s : State) : State :=
  { s with err := err, ecode := ecode, resp := resp }

/-- A completion neither reads nor writes the error record and the response (10_state R40). -/
theorem coreComplete_withReport {ff : Bool} {s u : State} (h : coreComplete ff s = .next u) (err : Bool)
    (ecode : BitVec 4) (resp : Option Response) :
    coreComplete ff (s.withReport err ecode resp) = .next (u.withReport err ecode resp) := by
  have hphase : (s.withReport err ecode resp).phase = s.phase := rfl
  rw [coreComplete, hphase]
  rcases coreComplete_cases ff s with ⟨hp, hc⟩ | ⟨hp, hi, hc⟩ | ⟨_, _, hc⟩ | ⟨hp, hc⟩ | ⟨hp, hc⟩ <;> rw [hc] at h
  · obtain rfl := next_inj.1 h
    rw [hp]
  · obtain rfl := next_inj.1 h
    rw [hp]
    exact if_pos hi
  · cases h
  · obtain rfl := next_inj.1 h
    rw [hp]
    rfl
  · obtain rfl := next_inj.1 h
    rw [hp]
    rfl

/-- While busy, a write to the offsets closed then changes the error record and the response at most, aligned or not. -/
theorem eq_withReport_of_closedWhileBusy {off : Offset} {n : Nat} {v : Word} {s t : State}
    (hoff : closedWhileBusy off) (hb : s.busy = true) (h : memWrite off n v s = .next t) :
    ∃ err ecode resp, t = s.withReport err ecode resp := by
  by_cases hbad : badWrite off n
  · obtain rfl := next_inj.1 ((memWrite_of_badWrite v s hbad).symm.trans h)
    exact ⟨_, _, _, badAccess_eq none s⟩
  · obtain rfl := next_inj.1 ((memWrite_of_closedWhileBusy v hbad hoff hb).symm.trans h)
    rw [raise_eq]
    exact ⟨_, _, _, rfl⟩

/-- Where ERR is set after a STATUS write, the write left the error as it was (60_exceptions R171). -/
theorem writeStatus_keeps_error {v : Word} {s : State} (h : (writeStatus v s).err = true) :
    s.err = true ∧ (writeStatus v s).ecode = s.ecode := by
  rw [writeStatus_err] at h
  rw [writeStatus_ecode]
  by_cases hv : v.getLsbD 2 = true
  · rw [if_pos hv] at h
    cases h
  · rw [if_neg hv] at h ⊢
    exact ⟨h, rfl⟩

/-- Settles O20: the write records BUSY_VIOLATION alone, and the completion does not look at what a write records. -/
theorem busyWriteIsDropped : Obligations.BusyWriteIsDropped := by
  refine fun s v hb => ⟨fun off hbad hoff => ?dropped, fun off => memRead_flags_of_not_badPlace s,
    ⟨_, memWrite_status v s, fun herr => (writeStatus_keeps_error herr).1⟩, fun off ff t u hoff ht hu => ?completes⟩
  case dropped =>
    rw [memWrite_of_closedWhileBusy v hbad hoff hb, raise_eq]
    rfl
  case completes =>
    obtain ⟨err, ecode, resp, rfl⟩ := eq_withReport_of_closedWhileBusy hoff hb ht
    exact ⟨_, coreComplete_withReport hu err ecode resp, rfl, rfl⟩

/-! ILLEGAL_CMD (60_exceptions R163) -/

/-- A reserved word written to CMD while idle. -/
theorem memWrite_of_reservedWord {off : Offset} {n : Nat} {v : Word} {s : State} (hbad : ¬ badWrite off n)
    (hoff : off.toNat = 0x178) (hb : s.busy = false) (hv : reservedWord v) :
    memWrite off n v s = .next (respond .ok none (raise .illegalCmd s)) := by
  obtain ⟨rfl, -⟩ := eq_offset_of_not_badWrite hbad
  obtain rfl : off = Reg.cmd.offset := BitVec.eq_of_toNat_eq hoff
  obtain ⟨x, hx⟩ := decode_error_iff_reservedWord.2 hv
  rw [memWrite_offset]
  simp [writeReg, Reg.writeClass, hb, issue, hx, respond_raise]

/-- Settles O4: the write is the error alone, beside the response. -/
theorem reservedWordRaisesIllegalCmd : Obligations.ReservedWordRaisesIllegalCmd := by
  intro s v hp hv
  rw [memWrite_of_reservedWord (by decide) rfl ((not_busy_iff s).2 hp) hv, raise_eq]
  rfl

/-! The order of the errors (60_exceptions R167) -/

/-- A write to which none of the three errors applies raises nothing. -/
theorem memWrite_without_error {off : Offset} {n : Nat} {v : Word} {s : State} (hbad : ¬ badWrite off n)
    (hclosed : ¬ (closedWhileBusy off ∧ s.busy = true)) (hcmd : ¬ (off.toNat = 0x178 ∧ reservedWord v)) :
    ∃ t, memWrite off n v s = .next t ∧ (t.err = true → s.err = true ∧ t.ecode = s.ecode) := by
  rcases memWrite_cases off n v s with ⟨hro, _⟩ | ⟨_, _, hw⟩ | ⟨r, hb, hc, rfl, _⟩ | ⟨_, _, _, _, _, hw⟩ |
    ⟨hb, rfl, _, hw⟩
  · obtain ⟨rfl, r, rfl, hc⟩ := eq_offset_of_not_badWrite hbad
    exact absurd (hro r rfl rfl) hc
  · exact ⟨_, hw, writeStatus_keeps_error⟩
  · exact absurd ⟨(closedWhileBusy_offset_iff r).2 hc, hb⟩ hclosed
  · exact ⟨_, hw, fun herr => by simpa using herr⟩
  · rcases issue_cases v (respond .ok none s) hb with ⟨hd, _⟩ | ⟨_, hi⟩ | ⟨_, hi⟩ | ⟨_, hi⟩ | ⟨_, hi⟩
    · exact absurd ⟨rfl, decode_error_iff_reservedWord.1 hd⟩ hcmd
    all_goals exact ⟨_, hw.trans hi, fun herr => ⟨herr, rfl⟩⟩

/-- No write stops the machine (60_exceptions R165). -/
theorem exists_next_memWrite (off : Offset) (n : Nat) (v : Word) (s : State) : ∃ t, memWrite off n v s = .next t := by
  by_cases hbad : badWrite off n
  · exact ⟨_, memWrite_of_badWrite v s hbad⟩
  by_cases hclosed : closedWhileBusy off ∧ s.busy = true
  · exact ⟨_, memWrite_of_closedWhileBusy v hbad hclosed.1 hclosed.2⟩
  by_cases hcmd : off.toNat = 0x178 ∧ reservedWord v
  · have hb : s.busy = false := Bool.eq_false_iff.2 fun hb => hclosed ⟨.inr (.inr hcmd.1), hb⟩
    exact ⟨_, memWrite_of_reservedWord hbad hcmd.1 hb hcmd.2⟩
  · obtain ⟨t, ht, _⟩ := memWrite_without_error hbad hclosed hcmd
    exact ⟨t, ht⟩

/-- Settles O27: each error where it is the first that applies, and nothing where none does. -/
theorem oneErrorPerAccessByPriority : Obligations.OneErrorPerAccessByPriority := by
  intro s off n v
  obtain ⟨t, ht⟩ := exists_next_memWrite off n v s
  refine ⟨fun h => ?badRead, memRead_flags_of_not_badPlace s, t, ht, fun hbad => ?badWrite,
    fun hbad hoff hb => ?busyWrite, fun hbad hoff hb hv => ?reserved, fun hbad hclosed hcmd => ?none⟩
  case badRead =>
    rw [memRead_of_badPlace s h]
    exact ⟨badAccess_err _ s, badAccess_ecode _ s⟩
  case badWrite =>
    obtain rfl := next_inj.1 ((memWrite_of_badWrite v s hbad).symm.trans ht)
    exact ⟨badAccess_err _ s, badAccess_ecode _ s⟩
  case busyWrite =>
    obtain rfl := next_inj.1 ((memWrite_of_closedWhileBusy v hbad hoff hb).symm.trans ht)
    exact ⟨raise_err _ s, raise_ecode _ s⟩
  case reserved =>
    obtain rfl := next_inj.1 ((memWrite_of_reservedWord hbad hoff hb hv).symm.trans ht)
    exact ⟨raise_err _ s, raise_ecode _ s⟩
  case none =>
    obtain ⟨u, hu, herr⟩ := memWrite_without_error hbad hclosed hcmd
    obtain rfl := next_inj.1 (hu.symm.trans ht)
    exact herr

/-! The core's steps (60_exceptions R166), and no stop (60_exceptions R165, R170) -/

/-- A completion keeps ERR and ECODE: given the error record of the state it starts from, its result is unchanged. -/
theorem coreComplete_errorFlags {ff : Bool} {s t : State} (h : coreComplete ff s = .next t) :
    t.err = s.err ∧ t.ecode = s.ecode := by
  have hkept := coreComplete_withReport h s.err s.ecode s.resp
  have hsame : s.withReport s.err s.ecode s.resp = s := rfl
  rw [hsame, h] at hkept
  rw [next_inj.1 hkept]
  exact ⟨rfl, rfl⟩

/-- A round keeps ERR and ECODE. -/
theorem coreRound_errorFlags {s t : State} (h : coreRound s = .next t) : t.err = s.err ∧ t.ecode = s.ecode := by
  rcases coreRound_cases s with ⟨_, hr⟩ | ⟨_, hr⟩ <;> rw [hr] at h
  · obtain rfl := next_inj.1 h
    exact ⟨rfl, rfl⟩
  · rcases compressRound_cases s with ⟨_, hc⟩ | ⟨_, hc⟩ | ⟨_, hc⟩ <;> rw [hc] at h
    · obtain rfl := next_inj.1 h
      exact ⟨rfl, rfl⟩
    · obtain rfl := next_inj.1 h
      exact ⟨rfl, rfl⟩
    · cases h

/-- With I at most 80 the completion takes place. -/
theorem exists_next_coreComplete {s : State} (hi : s.roundCounter.toNat ≤ 80) (ff : Bool) :
    ∃ u, coreComplete ff s = .next u := by
  rcases coreComplete_cases ff s with ⟨_, hc⟩ | ⟨_, _, hc⟩ | ⟨_, hgt, _⟩ | ⟨_, hc⟩ | ⟨_, hc⟩
  · exact ⟨_, hc⟩
  · exact ⟨_, hc⟩
  · exact absurd hi (by omega)
  · exact ⟨_, hc⟩
  · exact ⟨_, hc⟩

/-- Settles O28: neither core step writes the error record, and the completion's one fault needs I above 80. -/
theorem coreStepsRaiseNothing : Obligations.CoreStepsRaiseNothing := by
  refine fun ff s t => ⟨coreComplete_errorFlags, coreRound_errorFlags, fun hi => ?_⟩
  obtain ⟨u, hu⟩ := exists_next_coreComplete hi ff
  exact ⟨u, hu, (coreComplete_flags hu).1⟩

/-- Settles O46: under the invariant the rounds are held, so the event at the head, or the core's own round or
completion where nothing is scheduled, has a next state. -/
theorem invariantStatesHaveANextState : Obligations.InvariantStatesHaveANextState := by
  intro s hinv
  cases hs : s.schedule with
  | nil =>
    rw [step, stepWith_nil _ s hs]
    rcases coreClock_cases Config.feedForward s with ⟨_, _, hc⟩ | ⟨_, hc⟩ <;> rw [hc]
    · exact exists_next_of_roundsHeld hinv.roundsHeld .round Config.feedForward
    · exact exists_next_of_roundsHeld hinv.roundsHeld .complete Config.feedForward
  | cons e rest =>
    rw [step_of_schedule_cons hs]
    exact exists_next_of_roundsHeld (hinv.withSchedule rest).roundsHeld e Config.feedForward

end Sys2Proof.Machine
end

section
/-! Proofs: the state after reset, and reset in any state (70_reset R190 to R192). -/

namespace Sys2Proof.Machine

/-- STATUS of an idle block without an error is the DONE bit alone (10_state R30). -/
theorem statusWord_of_idle_without_error {s : State} (hb : s.busy = false) (herr : s.err = false)
    (hcode : s.ecode = 0) : s.statusWord = flagWord s.done <<< 1 := by
  rw [State.statusWord, hb, herr, hcode]
  cases s.done <;> rfl

/-- A placed command is left pending where its `exec` leaves it so (10_state R39). -/
theorem placed_command_pending {s : State} {i : Instr} {op : PendOp}
    (h : ∃ t, exec i { s with resp := some ⟨.ok, none⟩ } = .next t ∧ t.phase = .busy op) :
    ∃ t, step (s.withFetchWord 32 (encode i).toNat) = .next t ∧ t.phase = .busy op := by
  rwa [(placedCommandRunsNext s i).2]

/-- Settles O42: the values are those of the reset state, and since it is idle `exec` accepts each of the three
commands. -/
theorem resetStateIsReady : Obligations.ResetStateIsReady := by
  refine ⟨rfl, rfl, rfl, rfl, by decide, fun p hp => placed_command_pending ?_⟩
  simp only [List.mem_cons, List.not_mem_nil, or_false] at hp
  rcases hp with rfl | rfl | rfl
  · exact ⟨_, exec_compress_of_idle rfl, rfl⟩
  · exact ⟨_, exec_rotl_of_idle rfl, rfl⟩
  · exact ⟨_, exec_mix_of_idle rfl, rfl⟩

/-- Settles O43: the step is `resetNow`, whose data registers are the free words after the `draws` taken. -/
theorem resetAbandonsTheCommand : Obligations.ResetAbandonsTheCommand := by
  intro s rest hs
  refine ⟨resetNow (s.withSchedule rest), step_of_schedule_cons hs, rfl, ?status, rfl, rfl, fun j => ?w, fun j => ?h,
    rfl, rfl, rfl, rfl, rfl⟩
  case status => exact statusWord_of_idle_without_error rfl rfl rfl
  case w => simp [resetNow, State.afterReset]
  case h => simp [resetNow, State.afterReset]

end Sys2Proof.Machine
end

section
/-! Proofs: the progress of a host through its program, over one step and over a whole run (70_reset R202). -/

namespace Sys2Proof.Machine

/-! One step -/

theorem programEnded_iff {p : HostProgress} : programEnded p = true ↔ p.left = [] ∧ p.unseen = false := by
  simp [programEnded]

/-- A command word is well formed exactly when it is one of 0 to 3 (30_encoding R74). -/
theorem commandWordWellFormed_iff_le {v : Word} : commandWordWellFormed v = true ↔ v.toNat ≤ 3 := by
  simp only [commandWordWellFormed, Bool.and_eq_true, beq_iff_eq, decide_eq_true_eq, BitVec.lt_def, ← BitVec.toNat_inj,
    BitVec.extractLsb'_toNat, BitVec.ofNat_eq_ofNat, BitVec.toNat_ofNat, Nat.shiftRight_eq_div_pow]
  omega

/-- `writesCommand` is the test of the statements' `isCommandWrite`. -/
theorem writesCommand_iff_isCommandWrite {e : Event} : writesCommand e = true ↔ isCommandWrite e := by
  rw [writesCommand_iff]
  simp only [commandWordWellFormed_iff_le]
  rfl

/-- A scheduled event shows the host BUSY = 0 exactly when it is a 4-byte read of STATUS in an idle block. -/
theorem seesIdle_iff {s t : State} {e : Event} {rest : List Event} (hs : s.schedule = e :: rest)
    (ht : step s = .next t) : seesIdle e t = true ↔ e = .read 0x17C 4 ∧ s.busy = false := by
  simp only [seesIdle, Bool.and_eq_true, decide_eq_true_eq]
  refine and_congr_right fun he => ?_
  obtain ⟨u, hu, -, hwait, -⟩ := pollingReadsTheFlags s rest (hs.trans (congrArg (· :: rest) he))
  obtain rfl := next_inj.1 (hu.symm.trans ht)
  rw [hwait, not_busy_iff]

/-- With nothing scheduled, a step is nothing to the host. -/
theorem after_of_nil {own : Bool} {s t : State} (p : HostProgress) (hs : s.schedule = []) : p.after own s t = p := by
  simp [HostProgress.after, hs]

/-- An event that is not the host's next line is nothing to it. -/
theorem after_of_ne_head {own : Bool} {s t : State} {e : Event} {rest : List Event} {p : HostProgress}
    (hs : s.schedule = e :: rest) (hp : p.left.head? ≠ some e) : p.after own s t = p := by
  simp [HostProgress.after, hs, hp]

/-- The host's own step takes its next line. -/
theorem after_own_line {s t : State} {e : Event} {rest : List Event} (l : List Event) (u : Bool)
    (hs : s.schedule = e :: rest) :
    HostProgress.after true s t ⟨e :: l, u⟩ = ⟨l, writesCommand e || (u && !seesIdle e t)⟩ :=
  after_own hs rfl

/-- Settles O55: the law of the host's own step, with `writesCommand` and `seesIdle` decided in each case. -/
theorem hostProgressOverOneStep : Obligations.HostProgressOverOneStep := by
  refine ⟨fun _ _ => programEnded_iff, fun _ _ _ p => after_of_nil p, fun s t e rest hs ht =>
    ⟨after_other s t, fun _ _ => after_of_ne_head hs, fun l u => ?_⟩⟩
  rw [after_own_line l u hs]
  refine ⟨fun hcmd => ?command, fun he hb => ?sees, fun hcmd hsees => ?other⟩
  case command => rw [writesCommand_iff_isCommandWrite.2 hcmd, Bool.true_or]
  case sees =>
    have hcmd : writesCommand e = false := by rw [he]; rfl
    rw [hcmd, (seesIdle_iff hs ht).2 ⟨he, hb⟩, Bool.not_true, Bool.and_false, Bool.or_false]
  case other =>
    rw [← writesCommand_iff_isCommandWrite, Bool.not_eq_true] at hcmd
    rw [← seesIdle_iff hs ht, Bool.not_eq_true] at hsees
    rw [hcmd, hsees, Bool.not_false, Bool.and_true, Bool.false_or]

/-! Whole runs: what is to be seen, said of a run's first step and of the run from the next state -/

/-- Some own read of STATUS in the run from `s` shows BUSY = 0. -/
def SeesIdleLater (s : State) (marks : List Bool) (evs : List Event) : Prop := ∃ k, ownReadSeesIdle s marks evs k

/-- Every command the host writes in the run from `s` is followed by an own read of STATUS that shows BUSY = 0. -/
def CommandsSeenIdle (s : State) (marks : List Bool) (evs : List Event) : Prop :=
  ∀ (i : Nat) (e : Event), marks[i]? = some true → evs[i]? = some e → isCommandWrite e →
    ∃ k, i < k ∧ ownReadSeesIdle s marks evs k

section
variable {s t : State} {own : Bool} {e : Event} {marks : List Bool} {evs : List Event}

/-- The first step shows BUSY = 0 exactly when it is an own read of STATUS of an idle block. -/
theorem ownReadSeesIdle_zero_iff :
    ownReadSeesIdle s (own :: marks) (e :: evs) 0 ↔ own = true ∧ e = .read 0x17C 4 ∧ s.busy = false := by
  have hstart : (∃ x : State, core.run 0 s = .next x ∧ x.busy = false) ↔ s.busy = false :=
    ⟨fun ⟨_, hx, hb⟩ => next_inj.1 hx ▸ hb, fun hb => ⟨s, rfl, hb⟩⟩
  simp only [ownReadSeesIdle, hstart, List.getElem?_cons_zero, Option.some.injEq]

/-- A later step is a step of the run from the next state. -/
theorem ownReadSeesIdle_succ_iff (ht : step s = .next t) (k : Nat) :
    ownReadSeesIdle s (own :: marks) (e :: evs) (k + 1) ↔ ownReadSeesIdle t marks evs k := by
  simp only [ownReadSeesIdle, List.getElem?_cons_succ, run_succ_of_next ht]

theorem seesIdleLater_cons_iff (ht : step s = .next t) : SeesIdleLater s (own :: marks) (e :: evs) ↔
    (own = true ∧ e = .read 0x17C 4 ∧ s.busy = false) ∨ SeesIdleLater t marks evs := by
  rw [SeesIdleLater, ← Nat.or_exists_add_one, ownReadSeesIdle_zero_iff]
  simp only [ownReadSeesIdle_succ_iff ht, SeesIdleLater]

theorem commandsSeenIdle_cons_iff (ht : step s = .next t) : CommandsSeenIdle s (own :: marks) (e :: evs) ↔
    (own = true ∧ isCommandWrite e → SeesIdleLater t marks evs) ∧ CommandsSeenIdle t marks evs := by
  have hlater (i : Nat) : (∃ k, i + 1 < k ∧ ownReadSeesIdle s (own :: marks) (e :: evs) k) ↔
      ∃ k, i < k ∧ ownReadSeesIdle t marks evs k := by
    rw [← Nat.or_exists_add_one]
    simp only [ownReadSeesIdle_succ_iff ht, Nat.not_lt_zero, false_and, false_or, Nat.add_lt_add_iff_right]
  have hfirst : (∃ k, 0 < k ∧ ownReadSeesIdle s (own :: marks) (e :: evs) k) ↔ SeesIdleLater t marks evs := by
    rw [← Nat.or_exists_add_one]
    simp only [ownReadSeesIdle_succ_iff ht, Nat.lt_irrefl, false_and, false_or, Nat.succ_pos, true_and, SeesIdleLater]
  rw [CommandsSeenIdle, ← Nat.and_forall_add_one]
  simp only [hlater, hfirst, List.getElem?_cons_zero, List.getElem?_cons_succ, Option.some.injEq]
  exact and_congr_left' ⟨fun h ⟨hown, hcmd⟩ => h e hown rfl hcmd, fun h _ hown he hcmd => h ⟨hown, he ▸ hcmd⟩⟩

end

/-- The host's own lines among the events of a run. -/
abbrev ownLines (marks : List Bool) (evs : List Event) : List Event :=
  ((marks.zip evs).filter Prod.fst).map Prod.snd

/-- A step takes the host's next line if it is its own, and decides what is then still to be seen. -/
theorem after_ownLines_cons {s t : State} {own u : Bool} {e : Event} {rest : List Event} {marks : List Bool}
    {evs : List Event} (hs : s.schedule = e :: rest) (ht : step s = .next t) :
    ∃ u', HostProgress.after own s t ⟨ownLines (own :: marks) (e :: evs), u⟩ = ⟨ownLines marks evs, u'⟩ ∧
      (u' = true ↔ (u = true ∧ ¬ (own = true ∧ e = .read 0x17C 4 ∧ s.busy = false)) ∨
        (own = true ∧ isCommandWrite e)) := by
  cases own with
  | false => exact ⟨u, by simp [ownLines], by simp⟩
  | true =>
    refine ⟨_, after_own_line (ownLines marks evs) u hs, ?_⟩
    rw [← writesCommand_iff_isCommandWrite, ← seesIdle_iff hs ht]
    simp [or_comm]

/-- A step takes its event off the schedule and leaves the rest. -/
theorem schedule_of_step {s t : State} (h : step s = .next t) : t.schedule = s.schedule.tail :=
  effect_schedule (effect_of_step h)

/-- Under the invariant the run takes place and performs every line; the program has ended when each BUSY = 0 that was
to be seen is seen. -/
theorem hostRun_ownLines {marks : List Bool} {evs : List Event} (hlen : marks.length = evs.length) {s : State}
    {rest : List Event} (u : Bool) (hinv : Inv s) (hs : s.schedule = evs ++ rest) :
    ∃ p t, hostRun marks ⟨ownLines marks evs, u⟩ s = some (p, t) ∧ p.left = [] ∧ t.schedule = rest ∧
      (programEnded p = true ↔ (u = true → SeesIdleLater s marks evs) ∧ CommandsSeenIdle s marks evs) := by
  induction marks generalizing evs s u with
  | nil =>
    obtain rfl := List.eq_nil_of_length_eq_zero hlen.symm
    exact ⟨_, s, rfl, rfl, hs, by simp [programEnded_iff, SeesIdleLater, CommandsSeenIdle, ownReadSeesIdle]⟩
  | cons own marks ih =>
    obtain ⟨e, evs, rfl⟩ := List.exists_cons_of_length_eq_add_one hlen.symm
    obtain ⟨t, ht⟩ := invariantStatesHaveANextState s hinv
    have hts : t.schedule = evs ++ rest := by rw [schedule_of_step ht, hs]; rfl
    obtain ⟨u', hafter, hu'⟩ := after_ownLines_cons (own := own) (u := u) (marks := marks) (evs := evs) hs ht
    obtain ⟨p, x, hrun, hleft, hxs, hend⟩ :=
      ih (Nat.succ.inj hlen) u' (stepKeepsInvariant s t hinv ht) hts
    refine ⟨p, x, ?_, hleft, hxs, ?_⟩
    · rw [hostRun_cons_of_next ht, hafter, hrun]
    · rw [hend, hu', seesIdleLater_cons_iff ht, commandsSeenIdle_cons_iff ht]
      rw [or_imp, and_imp (a := u = true), ← or_iff_not_imp_left, and_assoc]

/-- Only an own read of STATUS ends a program whose host has yet to see BUSY = 0. -/
theorem status_read_of_hostRun_ended {marks : List Bool} {p p' : HostProgress} {s t : State}
    (hrun : hostRun marks p s = some (p', t)) (hu : p.unseen = true) (hend : programEnded p' = true) :
    lineRD .status ∈ p.left := by
  induction marks generalizing p s with
  | nil =>
    obtain ⟨rfl, -⟩ := Prod.mk.inj (Option.some.inj hrun)
    simp [programEnded, hu] at hend
  | cons own marks ih =>
    obtain ⟨x, -, hrun'⟩ := step_of_hostRun_cons hrun
    rcases after_cases own s x p with hafter | ⟨e, he, hafter⟩ <;> rw [hafter] at hrun'
    · exact ih hrun' hu
    · by_cases hread : e = lineRD .status
      · exact hread ▸ List.mem_of_head? he
      · exact List.mem_of_mem_tail (ih hrun' (by simp [hu, seesIdle, hread]))

/-! Runs of the host's own accesses -/

theorem withSchedule_respond (es : List Event) (st : BusStatus) (d : Option Word) (s : State) :
    (respond st d s).withSchedule es = respond st d (s.withSchedule es) := rfl

theorem withSchedule_withSchedule (es es' : List Event) (s : State) :
    (s.withSchedule es').withSchedule es = s.withSchedule es := rfl

/-- The host's own step. -/
theorem hostRun_own {s t : State} {e : Event} {rest l : List Event} {u : Bool} {marks : List Bool}
    (hs : s.schedule = e :: rest) (ht : step s = .next t) :
    hostRun (true :: marks) ⟨e :: l, u⟩ s = hostRun marks ⟨l, writesCommand e || (u && !seesIdle e t)⟩ t := by
  rw [hostRun_cons_of_next ht, after_own_line l u hs]

/-- The host's own read of a register: of STATUS while idle it ends what was to be seen. -/
theorem hostRun_own_read {s : State} {r : Reg} {rest l : List Event} {u u' : Bool} {marks : List Bool}
    (hs : s.schedule = lineRD r :: rest) (hu : u' = true ↔ u = true ∧ ¬ (r = .status ∧ s.busy = false)) :
    hostRun (true :: marks) ⟨lineRD r :: l, u⟩ s =
      hostRun marks ⟨l, u'⟩ (respond .ok (some (s.readReg r)) (s.withSchedule rest)) := by
  have ht := step_lineRD hs
  have hread : lineRD r = .read 0x17C 4 ↔ r = .status :=
    ⟨fun h => offset_injective (Event.read.inj h).1, fun h => by rw [h]; rfl⟩
  rw [hostRun_own hs ht]
  congr 2
  rw [Bool.eq_iff_iff, hu, ← hread, ← seesIdle_iff hs ht]
  simp [lineRD, writesCommand]

/-- While a command is pending, polls of STATUS take their lines and change the schedule and the response alone. -/
theorem hostRun_polls {k : Nat} {s : State} {rest : List Event} (l : List Event) (hb : s.busy = true)
    (hs : s.schedule = pseudoWAIT k ++ rest) :
    ∃ t, hostRun (List.replicate k true) ⟨pseudoWAIT k ++ l, true⟩ s = some (⟨l, true⟩, t) ∧ t.schedule = rest ∧
      t.phase = s.phase ∧ t.err = s.err ∧ t.ecode = s.ecode ∧ t.endState = s.endState := by
  induction k generalizing s with
  | zero => exact ⟨s, rfl, hs, rfl, rfl, rfl, rfl⟩
  | succ k ih =>
    obtain ⟨t, hrun, hkept⟩ :=
      ih (s := respond .ok (some (s.readReg .status)) (s.withSchedule (pseudoWAIT k ++ rest))) hb rfl
    exact ⟨t, (hostRun_own_read hs (by simp [hb])).trans hrun, hkept⟩

/-- A program of one read ends with it, in any state, and keeps the end state. -/
theorem hostRun_one_read {s : State} {r : Reg} {rest : List Event} (hs : s.schedule = lineRD r :: rest) :
    ∃ p t, hostRun [true] (.start [lineRD r]) s = some (p, t) ∧ programEnded p = true ∧ t.endState = s.endState :=
  ⟨_, _, hostRun_own_read (u' := false) hs (by simp), rfl, rfl⟩

/-! ROTL32 (30_encoding R79) -/

/-- The host's own write to a data register of an idle block stores the word and keeps what is to be seen. -/
theorem hostRun_own_store {s : State} {r : Reg} {v : Word} {rest l : List Event} {u : Bool} {marks : List Bool}
    (hb : s.busy = false) (hc : r.writeClass = .input) (hs : s.schedule = lineWR r v :: rest) :
    hostRun (true :: marks) ⟨lineWR r v :: l, u⟩ s =
      hostRun marks ⟨l, u⟩ (respond .ok none ((s.withSchedule rest).storeReg r v)) := by
  have ht : step s = .next (respond .ok none ((s.withSchedule rest).storeReg r v)) :=
    (step_of_schedule_cons hs).trans (memWrite_input_of_idle (s := s.withSchedule rest) hb hc v)
  have hr : r ≠ .cmd := by rintro rfl; cases hc
  have hcmd : writesCommand (lineWR r v) = false := by simp [lineWR, writesCommand, hr]
  rw [hostRun_own hs ht, hcmd]
  simp [seesIdle, lineWR, lineRD]

/-- The host's own write of a command leaves BUSY = 0 to be seen. -/
theorem hostRun_own_command {s t : State} {i : Instr} {rest l : List Event} {u : Bool} {marks : List Bool}
    (hs : s.schedule = lineWR .cmd (encode i) :: rest)
    (ht : exec i (respond .ok none (s.withSchedule rest)) = .next t) :
    hostRun (true :: marks) ⟨lineWR .cmd (encode i) :: l, u⟩ s = hostRun marks ⟨l, true⟩ t := by
  have hcmd : writesCommand (lineWR .cmd (encode i)) = true := writesCommand_iff.2 ⟨_, (encodeFits i).1, rfl⟩
  rw [hostRun_own hs ((step_commandWrite hs (decode_encode i)).trans ht), hcmd, Bool.true_or]

/-! What the acceptance of a command and a store to OPA or OPB change of the end state -/

theorem accept_endState (op : PendOp) (s : State) :
    (accept op s).endState = { s.endState with status := (accept op s).statusWord } := rfl

theorem storeReg_opa_endState (s : State) (v : Word) :
    (s.storeReg .opa v).endState = { s.endState with opa := v } := rfl

theorem storeReg_opb_endState (s : State) (v : Word) :
    (s.storeReg .opb v).endState = { s.endState with opb := v } := rfl

/-- The three writes of ROTL32 to an idle block leave ROTL pending and BUSY = 0 to be seen. -/
theorem hostRun_rotl_writes {s : State} {v n : Word} {rest : List Event} (l : List Event) (hb : s.busy = false)
    (hs : s.schedule = lineWR .opa v :: lineWR .opb n :: lineWR .cmd (encode .rotl) :: rest) :
    ∃ t, hostRun (List.replicate 3 true)
        (.start (lineWR .opa v :: lineWR .opb n :: lineWR .cmd (encode .rotl) :: l)) s = some (⟨l, true⟩, t) ∧
      t.schedule = rest ∧ t.phase = .busy .rotl ∧ t.err = s.err ∧ t.ecode = s.ecode ∧
      t.endState = { s.endState with status := t.statusWord, opa := v, opb := n } := by
  have hrun := Eq.trans (hostRun_own_store hb rfl hs) <| Eq.trans (hostRun_own_store (by simpa using hb) rfl rfl) <|
    hostRun_own_command (marks := []) (l := l) (u := false) rfl (exec_rotl_of_idle (by simpa using hb))
  exact ⟨_, hrun, by simp, by simp, by simp, by simp, by simp only [accept_endState, respond_endState,
    withSchedule_endState, storeReg_opa_endState, storeReg_opb_endState]⟩

/-- On an idle block, two reads of STATUS and one of RES end what was to be seen and answer with RES. -/
theorem hostRun_result_reads {s : State} {rest : List Event} (hb : s.busy = false)
    (hs : s.schedule = lineRD .status :: lineRD .status :: lineRD .res :: rest) :
    hostRun (List.replicate 3 true) ⟨[lineRD .status, lineRD .status, lineRD .res], true⟩ s =
      some (⟨[], false⟩, respond .ok (some s.res) (s.withSchedule rest)) := by
  refine Eq.trans (hostRun_own_read (u' := false) hs (by simp [hb])) ?_
  refine Eq.trans (hostRun_own_read (u' := false) rfl (by simp)) ?_
  refine Eq.trans (hostRun_own_read (u' := false) rfl (by simp)) ?_
  simp only [List.replicate_zero, hostRun_nil, withSchedule_respond, withSchedule_withSchedule, respond_respond,
    State.readReg, respond_res, withSchedule_res]

/-- The completion of a pending ROTL, and then two reads of STATUS and one of RES by the host. -/
theorem hostRun_rotl_completion {s : State} {rest : List Event} (hp : s.phase = .busy .rotl)
    (hs : s.schedule = .complete :: lineRD .status :: lineRD .status :: lineRD .res :: rest) :
    hostRun (false :: List.replicate 3 true) ⟨[lineRD .status, lineRD .status, lineRD .res], true⟩ s =
      some (⟨[], false⟩, respond .ok (some (rotl32 s.opa s.opb))
        ((finishRes (rotl32 s.opa s.opb) s).withSchedule rest)) := by
  have hcomplete : step s = .next (finishRes (rotl32 s.opa s.opb)
      (s.withSchedule (lineRD .status :: lineRD .status :: lineRD .res :: rest))) := by
    rw [step_of_schedule_cons hs, perform, coreComplete, hp]
    rfl
  rw [hostRun_cons_of_next hcomplete, after_other]
  exact hostRun_result_reads rfl rfl

/-- A pending ROTL with no error recorded: `k` polls, the completion, and the three reads that end the program. -/
theorem hostRun_pending_rotl {s : State} {k : Nat} {rest : List Event} (hp : s.phase = .busy .rotl)
    (herr : s.err = false) (hcode : s.ecode = 0)
    (hs : s.schedule = pseudoWAIT k ++ .complete :: lineRD .status :: lineRD .status :: lineRD .res :: rest) :
    ∃ t, hostRun (List.replicate k true ++ false :: List.replicate 3 true)
        ⟨pseudoWAIT k ++ [lineRD .status, lineRD .status, lineRD .res], true⟩ s = some (⟨[], false⟩, t) ∧
      t.resp = some ⟨.ok, some (rotl32 s.opa s.opb)⟩ ∧ t.schedule = rest ∧
      t.endState = { s.endState with status := 0x00000002, res := rotl32 s.opa s.opb } := by
  have hb : s.busy = true := (busy_iff s).2 (by simp [hp])
  obtain ⟨t, hpolls, hts, htp, hterr, htcode, hkept⟩ :=
    hostRun_polls [lineRD .status, lineRD .status, lineRD .res] hb hs
  have hopa : t.opa = s.opa := congrArg EndState.opa hkept
  have hopb : t.opb = s.opb := congrArg EndState.opb hkept
  have hstatus (x : Word) : (finishRes x t).statusWord = 0x00000002 :=
    statusWord_of_idle_without_error rfl (hterr.trans herr) (htcode.trans hcode)
  have hrun := (hostRun_append hpolls).trans (hostRun_rotl_completion (htp.trans hp) hts)
  rw [hopa, hopb] at hrun
  refine ⟨_, hrun, rfl, rfl, ?_⟩
  rw [respond_endState, withSchedule_endState, finishRes_endState, hstatus, hkept]

/-- ROTL32 with `k` polls before the completion and one after it, on an idle block without an error. -/
theorem hostRun_rotl32 {s : State} {v n : Word} {k : Nat} {rest : List Event} (hinv : Inv s) (hp : s.phase = .idle)
    (herr : s.err = false)
    (hs : s.schedule = [lineWR .opa v, lineWR .opb n, lineWR .cmd (encode .rotl)] ++ pseudoWAIT k ++
      .complete :: (pseudoWAIT 1 ++ pseudoCHECK ++ [lineRD .res] ++ rest)) :
    ∃ p t, hostRun (List.replicate (3 + k) true ++ false :: List.replicate 3 true)
        (.start (pseudoROTL32 v n (k + 1))) s = some (p, t) ∧
      programEnded p = true ∧ t.resp = some ⟨.ok, some (rotl32 v n)⟩ ∧ t.schedule = rest ∧
      t.endState = { s.endState with status := 0x00000002, opa := v, opb := n, res := rotl32 v n } := by
  have hlines : pseudoROTL32 v n (k + 1) = lineWR .opa v :: lineWR .opb n :: lineWR .cmd (encode .rotl) ::
      (pseudoWAIT k ++ [lineRD .status, lineRD .status, lineRD .res]) := by
    simp [pseudoROTL32, pseudoWAIT, pseudoCHECK, List.replicate_add]
  obtain ⟨x, hwrites, hxs, hxp, hxerr, hxcode, hxend⟩ := hostRun_rotl_writes
    (pseudoWAIT k ++ [lineRD .status, lineRD .status, lineRD .res]) ((not_busy_iff s).2 hp) hs
  obtain ⟨t, hrun, hresp, hts, hfinal⟩ := hostRun_pending_rotl hxp (hxerr.trans herr)
    (hxcode.trans (hinv.codeIffError.1 herr)) hxs
  have hopa : x.opa = v := congrArg EndState.opa hxend
  have hopb : x.opb = n := congrArg EndState.opb hxend
  rw [hopa, hopb] at hresp hfinal
  refine ⟨⟨[], false⟩, t, ?_, rfl, hresp, hts, ?_⟩
  · rw [hlines, List.replicate_add, List.append_assoc]
    exact (hostRun_append hwrites).trans hrun
  · rw [hfinal, hxend]

/-- Settles O54: the run by induction on its marks, the need of a read of STATUS by induction on the run, and the runs
of one read and of ROTL32 access by access. -/
theorem hostProgramEndsOnceIdleIsSeen : Obligations.HostProgramEndsOnceIdleIsSeen := by
  refine ⟨fun s marks evs rest u hinv hlen hs => ?_, fun marks p p' s t => status_read_of_hostRun_ended,
    fun s r rest => hostRun_one_read, fun s v n k rest => hostRun_rotl32⟩
  obtain ⟨p, t, hrun, hleft, hts, hend⟩ := hostRun_ownLines hlen u hinv hs
  refine ⟨p, t, hrun, hleft, hts, hend, fun hu hnone => hend.2 ⟨fun hu' => ?_, fun i e hi he hcmd => ?_⟩⟩
  · simp [hu] at hu'
  · exact absurd hcmd (hnone i e hi he)

end Sys2Proof.Machine
end
